-- ==== Sys2Proof/Word.lean ====
section
/-! DEFINITION. The two word types of the block (R7): a buffer element and a command or register word. -/

namespace Sys2Proof

/-- One element of a buffer, one byte of the wire (R7: 8 bits). -/
abbrev Byte := BitVec 8

/-- A command word, a read-port register, a millisecond time (R7: 32 bits). -/
abbrev Word := BitVec 32

end Sys2Proof
end

