-- ==== Sys2Proof/Syntax.lean ====
section
/-! DEFINITION. The thirteen commands of spec/opcode_table.json (R66), one constructor per row, with the operand fields of R65
at the widths the command word gives them. An operand that does not fit its field cannot be written down; the check on
operands that still are plain numbers (R69) is in WellFormed.lean. -/

namespace Sys2Proof

/-- A command (R66). Every field is unsigned and zero-extended (R65). -/
inductive Instr where
  /-- `NOP` (R109). -/
  | nop
  /-- `RX_PUSH d8` (R103). -/
  | rxPush (d8 : BitVec 8)
  /-- `RX_POLL` (R104). -/
  | rxPoll
  /-- `RX_RELEASE` (R105). -/
  | rxRelease
  /-- `RX_READ idx` (R106). -/
  | rxRead (idx18 : BitVec 18)
  /-- `TXP_WRITE idx, d8` (R88). -/
  | txpWrite (idx16 : BitVec 16) (d8 : BitVec 8)
  /-- `TX_SETLEN len` (R89). -/
  | txSetLen (len16 : BitVec 16)
  /-- `TX_ENCODE tid, type, value` (R90). -/
  | txEncode (tid8 : BitVec 8) (type3 : BitVec 3) (val5 : BitVec 5)
  /-- `TXF_READ idx` (R91). -/
  | txfRead (idx18 : BitVec 18)
  /-- `CRC8_CLEAR` (R82). -/
  | crc8Clear
  /-- `CRC8_UPDATE d8` (R83). -/
  | crc8Update (d8 : BitVec 8)
  /-- `SET_TIMEOUT ms` (R110). -/
  | setTimeout (imm24 : BitVec 24)
  /-- `SOFT_RESET` (R111). -/
  | softReset
  deriving DecidableEq, Repr

end Sys2Proof
end

