-- ==== Sys2Proof/Decode.lean ====
section
/-! DEFINITION. The encoding of commands (30_encoding.md, R63 to R68): the seven formats, the operand fields, the opcode map,
the decoder, total on every 32-bit word and refusing by name, and the encoder. -/

namespace Sys2Proof

/-- The seven formats of R64. -/
inductive Format where
  | N | B | H | I | W | L | T
  deriving DecidableEq, Repr

/-- The must-be-zero bits of a format (R64, R107). -/
def Format.mbz : Format → Word
  | .N => 0xFFFFFFF0#32
  | .B => 0xFFFF00F0#32
  | .H => 0xFF0000F0#32
  | .I => 0x00003FF0#32
  | .W => 0x000000F0#32
  | .L => 0x0000FFF0#32
  | .T => 0x000000F0#32

/-- One row of the opcode map of R66. -/
structure OpcodeRow where
  mnemonic : String
  op : BitVec 4
  format : Format
  matchBits : Word
  mask : Word
  deriving DecidableEq, Repr

/-- The opcode map of R66, transcribed row by row. The decoder below is written from R107; that the two agree is a statement. -/
def opcodeTable : List OpcodeRow :=
  [ ⟨"NOP", 0x0#4, .N, 0x00000000#32, 0xFFFFFFFF#32⟩,
    ⟨"RX_PUSH", 0x1#4, .B, 0x00000001#32, 0xFFFF00FF#32⟩,
    ⟨"RX_POLL", 0x2#4, .N, 0x00000002#32, 0xFFFFFFFF#32⟩,
    ⟨"RX_RELEASE", 0x3#4, .N, 0x00000003#32, 0xFFFFFFFF#32⟩,
    ⟨"RX_READ", 0x4#4, .I, 0x00000004#32, 0x00003FFF#32⟩,
    ⟨"TXP_WRITE", 0x5#4, .W, 0x00000005#32, 0x000000FF#32⟩,
    ⟨"TX_SETLEN", 0x6#4, .L, 0x00000006#32, 0x0000FFFF#32⟩,
    ⟨"TX_ENCODE", 0x7#4, .H, 0x00000007#32, 0xFF0000FF#32⟩,
    ⟨"TXF_READ", 0x8#4, .I, 0x00000008#32, 0x00003FFF#32⟩,
    ⟨"CRC8_CLEAR", 0x9#4, .N, 0x00000009#32, 0xFFFFFFFF#32⟩,
    ⟨"CRC8_UPDATE", 0xA#4, .B, 0x0000000A#32, 0xFFFF00FF#32⟩,
    ⟨"SET_TIMEOUT", 0xB#4, .T, 0x0000000B#32, 0x000000FF#32⟩,
    ⟨"SOFT_RESET", 0xC#4, .N, 0x0000000C#32, 0xFFFFFFFF#32⟩ ]

/-- A word is the command of a row exactly when it shows the row's match bits under the row's mask (R66). -/
def OpcodeRow.matches (r : OpcodeRow) (w : Word) : Bool := w &&& r.mask == r.matchBits

/-- The mnemonic of a command, as R66 spells it. -/
def Instr.mnemonic : Instr → String
  | .nop => "NOP"
  | .rxPush _ => "RX_PUSH"
  | .rxPoll => "RX_POLL"
  | .rxRelease => "RX_RELEASE"
  | .rxRead _ => "RX_READ"
  | .txpWrite _ _ => "TXP_WRITE"
  | .txSetLen _ => "TX_SETLEN"
  | .txEncode _ _ _ => "TX_ENCODE"
  | .txfRead _ => "TXF_READ"
  | .crc8Clear => "CRC8_CLEAR"
  | .crc8Update _ => "CRC8_UPDATE"
  | .setTimeout _ => "SET_TIMEOUT"
  | .softReset => "SOFT_RESET"

/-! The operand fields of R65. -/

/-- `OP = cmd[3:0]`. -/
def fieldOp (cmd : Word) : BitVec 4 := cmd.extractLsb' 0 4
/-- `D8 = cmd[15:8]`. -/
def fieldD8 (cmd : Word) : BitVec 8 := cmd.extractLsb' 8 8
/-- `TID8 = cmd[15:8]`. -/
def fieldTid8 (cmd : Word) : BitVec 8 := cmd.extractLsb' 8 8
/-- `TYPE3 = cmd[18:16]`. -/
def fieldType3 (cmd : Word) : BitVec 3 := cmd.extractLsb' 16 3
/-- `VAL5 = cmd[23:19]`. -/
def fieldVal5 (cmd : Word) : BitVec 5 := cmd.extractLsb' 19 5
/-- `IDX18 = cmd[31:14]`. -/
def fieldIdx18 (cmd : Word) : BitVec 18 := cmd.extractLsb' 14 18
/-- `IDX16 = cmd[31:16]`. -/
def fieldIdx16 (cmd : Word) : BitVec 16 := cmd.extractLsb' 16 16
/-- `LEN16 = cmd[31:16]`. -/
def fieldLen16 (cmd : Word) : BitVec 16 := cmd.extractLsb' 16 16
/-- `IMM24 = cmd[31:8]`. -/
def fieldImm24 (cmd : Word) : BitVec 24 := cmd.extractLsb' 8 24

/-- Why a word is no command (R67). -/
inductive DecodeError where
  /-- The opcode is `0xD`, `0xE` or `0xF` (R112). -/
  | reservedOpcode (op : BitVec 4)
  /-- A must-be-zero bit of the opcode's format is 1 (R64). -/
  | mustBeZero (format : Format)
  deriving DecidableEq, Repr

/-- Accept `i` for the word `cmd` if the must-be-zero bits of `f` are all zero (R67). -/
def accept (f : Format) (cmd : Word) (i : Instr) : Except DecodeError Instr :=
  if cmd &&& f.mbz = 0#32 then .ok i else .error (.mustBeZero f)

/-- The decoder (R63, R67, R107): total, each word exactly one command or ILLEGAL. -/
def decode (cmd : Word) : Except DecodeError Instr :=
  match (fieldOp cmd).toNat with
  | 0x0 => accept .N cmd .nop
  | 0x1 => accept .B cmd (.rxPush (fieldD8 cmd))
  | 0x2 => accept .N cmd .rxPoll
  | 0x3 => accept .N cmd .rxRelease
  | 0x4 => accept .I cmd (.rxRead (fieldIdx18 cmd))
  | 0x5 => accept .W cmd (.txpWrite (fieldIdx16 cmd) (fieldD8 cmd))
  | 0x6 => accept .L cmd (.txSetLen (fieldLen16 cmd))
  | 0x7 => accept .H cmd (.txEncode (fieldTid8 cmd) (fieldType3 cmd) (fieldVal5 cmd))
  | 0x8 => accept .I cmd (.txfRead (fieldIdx18 cmd))
  | 0x9 => accept .N cmd .crc8Clear
  | 0xA => accept .B cmd (.crc8Update (fieldD8 cmd))
  | 0xB => accept .T cmd (.setTimeout (fieldImm24 cmd))
  | 0xC => accept .N cmd .softReset
  | _ => .error (.reservedOpcode (fieldOp cmd))

/-- The encoder: each format's fields, most significant first (R64). -/
def encode : Instr → Word
  | .nop => 0#28 ++ 0x0#4
  | .rxPush d8 => 0#16 ++ d8 ++ 0#4 ++ 0x1#4
  | .rxPoll => 0#28 ++ 0x2#4
  | .rxRelease => 0#28 ++ 0x3#4
  | .rxRead idx18 => idx18 ++ 0#10 ++ 0x4#4
  | .txpWrite idx16 d8 => idx16 ++ d8 ++ 0#4 ++ 0x5#4
  | .txSetLen len16 => len16 ++ 0#12 ++ 0x6#4
  | .txEncode tid8 type3 val5 => 0#8 ++ val5 ++ type3 ++ tid8 ++ 0#4 ++ 0x7#4
  | .txfRead idx18 => idx18 ++ 0#10 ++ 0x8#4
  | .crc8Clear => 0#28 ++ 0x9#4
  | .crc8Update d8 => 0#16 ++ d8 ++ 0#4 ++ 0xA#4
  | .setTimeout imm24 => imm24 ++ 0#4 ++ 0xB#4
  | .softReset => 0#28 ++ 0xC#4

/-- The command the decoder reads from `nbits` bits `w`; a command word is 32 bits and has no other length (R63), so bits
above `nbits` are 0 and more than 32 bits are no command. -/
def decodeTableWord (nbits w : Nat) : Option Instr :=
  if nbits ≤ 32 ∧ w < 2 ^ nbits then
    match decode (BitVec.ofNat 32 w) with
    | .ok i => some i
    | .error _ => none
  else none

end Sys2Proof
end

