-- ==== Sys2Proof/Config.lean ====
section
/-! DEFINITION. What is fixed for one HFC instance (R5, R6, R21), and the free value for buffer bytes that nothing has written
since the last reset (R127, U1 to U3). -/

namespace Sys2Proof

/-- The two parameters of an instance (R5, R6; OPEN by decision D8). The receive buffer's size is kept as what it holds beyond
the 8 header bytes, so that every value of the type is a configuration the spec allows and no other is:
`8 <= RX_BUF_SIZE <= 65543` and `0 <= MAX_TX_PAYLOAD <= 65535`. -/
structure Config where
  /-- `RX_BUF_SIZE - 8`. -/
  rxPayloadMax : Fin 65536
  /-- `MAX_TX_PAYLOAD`. -/
  maxTxPayload : Fin 65536
  deriving DecidableEq, Repr

/-- The three byte buffers (R12, R45). -/
inductive BufferId where
  /-- The receive buffer `RXB` (R46). -/
  | rxb
  /-- The transmit payload buffer `TXP` (R47). -/
  | txp
  /-- The transmit frame buffer `TXF` (R48). -/
  | txf
  deriving DecidableEq, Repr

/-- `RX_BUF_SIZE` (R5). -/
def Config.rxBufSize (c : Config) : Nat := 8 + c.rxPayloadMax.val

/-- `TXF_SIZE = 2 * (8 + MAX_TX_PAYLOAD) + 2` (R6). -/
def Config.txfSize (c : Config) : Nat := 2 * (8 + c.maxTxPayload.val) + 2

/-- The size of each buffer (R45). -/
def Config.size (c : Config) : BufferId → Nat
  | .rxb => c.rxBufSize
  | .txp => c.maxTxPayload.val
  | .txf => c.txfSize

/-- The reference configuration `RX_BUF_SIZE = 264`, `MAX_TX_PAYLOAD = 256` (R5, R6, R131). -/
def Config.reference : Config := { rxPayloadMax := 256, maxTxPayload := 256 }

/-- FREE VALUE (log entry 4). The byte that the buffer holds at an index nothing has written since the reset number
`draws`: "a model draws them, as free inputs with no law, at power-on, and after SOFT_RESET too" (R127, U1 to U3). It has
no body, so no proof can rest on its value. -/
opaque Config.unwritten (b : BufferId) (draws : Nat) (index : Nat) : Byte

end Sys2Proof
end

