-- ==== Sys2Proof/Machine/State.lean ====
section
/-! DEFINITION. The state of one HFC instance (R22), as plain data; its reasons to stop; and the state right after reset
(R127). -/

namespace Sys2Proof.Machine

/-- The contents of one buffer: the bytes written since the last reset, by rising index (`Memory.wf` in Ops.lean). An index
that is not listed has no value here; what it reads as is `byteAt` in Ops.lean (log entry 4). -/
abbrev Memory := List Host.Cell

/-- The reasons of a frame error (R28, R115). -/
inductive FrameReason where
  /-- BAD_PACKET. -/
  | badPacket
  /-- BAD_CRC. -/
  | badCrc
  /-- INVALID_LENGTH. -/
  | invalidLength
  deriving DecidableEq, Repr

/-- The values of `cmd_result` that are ever written (R37, R114; log entry 6). -/
inductive CmdResult where
  | ok
  | illegal
  | busy
  | range
  deriving DecidableEq, Repr

/-- What the host writes to the command port in one step: a command word and the time that goes with it (R49, R20). -/
structure PortWrite where
  word : Word
  nowMs : Word
  deriving DecidableEq, Repr

/-- The state elements of R22 under their own names, then the configuration (R21), then the model's own fields. -/
structure State where
  /-- `rx_count` (R23). -/
  rxCount : BitVec 17
  /-- `rx_esc` (R24). -/
  rxEsc : Bool
  /-- `rx_ovf` (R25). -/
  rxOvf : Bool
  /-- `rx_ready` (R26). -/
  rxReady : Bool
  /-- `rx_err` (R27). -/
  rxErr : Bool
  /-- `rx_err_code` (R28); `none` is NONE. -/
  rxErrCode : Option FrameReason
  /-- `rx_discard` (R29). -/
  rxDiscard : Bool
  /-- `rx_last_ms` (R30). -/
  rxLastMs : BitVec 32
  /-- `rx_timeout` (R31). -/
  rxTimeout : BitVec 24
  /-- `tx_len` (R32). -/
  txLen : BitVec 16
  /-- `tx_frame_len` (R33). -/
  txFrameLen : BitVec 18
  /-- `tx_valid` (R34). -/
  txValid : Bool
  /-- `crc_acc` (R35). -/
  crcAcc : BitVec 8
  /-- `result` (R36). -/
  result : BitVec 32
  /-- `cmd_result` (R37). -/
  cmdResult : CmdResult
  /-- `RXB` (R46). -/
  rxb : Memory
  /-- `TXP` (R47). -/
  txp : Memory
  /-- `TXF` (R48). -/
  txf : Memory
  /-- The parameters of this instance, fixed for its life (R21; log entry 1). -/
  cfg : Config
  /-- The model's own: how often the buffers' contents have been drawn anew (R127; log entry 4). -/
  draws : Nat
  /-- The model's own: the input `now_ms` of the command being executed (R20; log entry 2). -/
  nowMs : BitVec 32
  /-- The model's own: what the host has still to write to the command port (R15, R49; log entry 2). -/
  commands : List PortWrite
  deriving DecidableEq, Repr

/-- Why a step stops with a fault. -/
inductive Fault where
  /-- An access past the end of a buffer, at an index that does not exist (R45). Raised by the buffer accesses of Ops.lean.
  SAFE: no state in the ranges of R22 raises it (log entry 5). -/
  | outsideBuffer (b : BufferId)
  deriving DecidableEq, Repr

/-- Why a step is refused. -/
inductive Refusal where
  /-- The instruction has no meaning yet. No arm of `exec` answers with it: every command is modelled. SAFE. -/
  | notModelled (mnemonic : String)
  deriving DecidableEq, Repr

/-- The state right after reset (R127), in the reference configuration (R131, log entry 1), with no command yet written to
the port. The buffers' bytes are unspecified: nothing is listed. -/
def State.reset : State where
  rxCount := 0
  rxEsc := false
  rxOvf := false
  rxReady := false
  rxErr := false
  rxErrCode := none
  rxDiscard := false
  rxLastMs := 0
  rxTimeout := 100
  txLen := 0
  txFrameLen := 0
  txValid := false
  crcAcc := 0x00
  result := 0
  cmdResult := .ok
  rxb := []
  txp := []
  txf := []
  cfg := Config.reference
  draws := 0
  nowMs := 0
  commands := []

end Sys2Proof.Machine
end

