-- ==== Sys2Proof/Machine/Ops.lean ====
section
/-! DEFINITION. The operations every command is built from: the buffers (R12, R45), the two ways a command ends (R13, R36,
R37), the reset (R127), the command port (R49). HFC has no trap (R113): `cmdError` is the one shared operation that an
error takes. -/

namespace Sys2Proof.Machine

/-! ## Memory -/

/-- The canonical form: indexes strictly rising. (An unlisted index has no value, so no entry can repeat it.) -/
def Memory.wf : Memory → Bool
  | [] => true
  | [_] => true
  | (a, _) :: (b, y) :: rest => decide (a < b) && Memory.wf ((b, y) :: rest)

/-- Every listed index is below `n`. -/
def Memory.below (n : Nat) (m : Memory) : Bool := m.all fun c => decide (c.1 < n)

/-- The byte listed at an index, if any. -/
def Memory.read? : Memory → Nat → Option Byte
  | [], _ => none
  | (k, v) :: rest, i => if k = i then some v else Memory.read? rest i

/-- List a byte at an index, keeping the order. -/
def Memory.write : Memory → Nat → Byte → Memory
  | [], i, v => [(i, v)]
  | (k, x) :: rest, i, v =>
    if i < k then (i, v) :: (k, x) :: rest
    else if i = k then (i, v) :: rest
    else (k, x) :: Memory.write rest i v

/-- List the bytes of a list from an index on, in rising order. -/
def Memory.writeAll : Memory → Nat → List Byte → Memory
  | m, _, [] => m
  | m, i, v :: vs => Memory.writeAll (Memory.write m i v) (i + 1) vs

/-- The contents of a buffer. -/
def State.mem (s : State) : BufferId → Memory
  | .rxb => s.rxb
  | .txp => s.txp
  | .txf => s.txf

/-- The state with a buffer's contents replaced. -/
def State.setMem (s : State) (b : BufferId) (m : Memory) : State :=
  match b with
  | .rxb => { s with rxb := m }
  | .txp => { s with txp := m }
  | .txf => { s with txf := m }

/-- THE BYTE A BUFFER HOLDS at an index: the one written there since the last reset, and where there is none the free value
`Config.unwritten` (R127, U1 to U3; log entry 4). -/
def byteAt (s : State) (b : BufferId) (i : Nat) : Byte :=
  (Memory.read? (s.mem b) i).getD (Config.unwritten b s.draws i)

/-- The bytes a buffer holds at the indexes `0 .. n - 1`. -/
def bytesAt (s : State) (b : BufferId) (n : Nat) : List Byte := (List.range n).map (byteAt s b)

/-- `MemRead(S, i, 1)` (R12). -/
def memRead (s : State) (b : BufferId) (i : Nat) : Except Fault Byte :=
  if i < s.cfg.size b then .ok (byteAt s b i) else .error (.outsideBuffer b)

/-- `MemRead(S, i, 1)` for `i` from 0 to `n - 1`, in order. -/
def memReadRange (s : State) (b : BufferId) (n : Nat) : Except Fault (List Byte) :=
  if n ≤ s.cfg.size b then .ok (bytesAt s b n) else .error (.outsideBuffer b)

/-- `MemWrite(S, i, 1, v)` (R12). -/
def memWrite (b : BufferId) (i : Nat) (v : Byte) (s : State) : Except Fault State :=
  if i < s.cfg.size b then .ok (s.setMem b (Memory.write (s.mem b) i v)) else .error (.outsideBuffer b)

/-- `MemWrite(S, i, 1, L[i])` for `i` from 0 to `len(L) - 1`, in order. -/
def memWriteRange (b : BufferId) (vs : List Byte) (s : State) : Except Fault State :=
  if vs.length ≤ s.cfg.size b then .ok (s.setMem b (Memory.writeAll (s.mem b) 0 vs))
  else .error (.outsideBuffer b)

/-! ## The end of a command -/

/-- A command that does not fail: `result` and `cmd_result <- OK` (R36, R37). -/
def complete (r : Word) (s : State) : State := { s with result := r, cmdResult := .ok }

/-- `raise CmdError(code)` (R13, R114): the code and `result <- 0`, and no other change. -/
def cmdError (code : CmdResult) (s : State) : State := { s with result := 0, cmdResult := code }

/-! ## Reset -/

/-- `Reset()` (R127), every element of R22 at once. The buffers' bytes are unspecified afterwards: nothing stays listed and
the free value is drawn anew. The configuration and what the host has still to write are not HFC's state and stay. -/
def resetAll (s : State) : State :=
  { s with
    rxCount := 0
    rxEsc := false
    rxOvf := false
    rxReady := false
    rxErr := false
    rxErrCode := none
    rxDiscard := false
    rxLastMs := 0
    rxTimeout := 100
    txLen := 0
    txFrameLen := 0
    txValid := false
    crcAcc := 0x00
    result := 0
    cmdResult := .ok
    rxb := []
    txp := []
    txf := []
    draws := s.draws + 1 }

/-! ## The command port -/

/-- The host's next write to the command port, taken off its list: the word, and the state with its `now_ms` sampled
(R20, R49). `none` when the host has nothing to write. -/
def takeCommand (s : State) : Option (Word × State) :=
  match s.commands with
  | [] => none
  | c :: rest => some (c.word, { s with nowMs := c.nowMs, commands := rest })

/-- The host writes one more command, ahead of what it already has to write. -/
def State.offer (s : State) (word nowMs : Word) : State :=
  { s with commands := { word := word, nowMs := nowMs } :: s.commands }

/-- Everything HFC does with a word that is no command (R67, R112): `raise CmdError(ILLEGAL)`, and the run goes on. -/
def illegalWord (s : State) : State := cmdError .illegal s

end Sys2Proof.Machine
end

