-- ==== Sys2Proof/Machine/Control.lean ====
section
/-! DEFINITION. The control commands NOP, SET_TIMEOUT, SOFT_RESET (R109 to R111). -/

namespace Sys2Proof.Machine

/-- `NOP` (R109). -/
def execNop (s : State) : Host.Outcome State Fault Refusal := .next (complete 0 s)

/-- `SET_TIMEOUT ms` (R110). -/
def execSetTimeout (imm24 : BitVec 24) (s : State) : Host.Outcome State Fault Refusal :=
  .next (complete 0 { s with rxTimeout := imm24 })

/-- `SOFT_RESET` (R111). -/
def execSoftReset (s : State) : Host.Outcome State Fault Refusal := .next (resetAll s)

end Sys2Proof.Machine
end

