-- ==== Sys2Proof/Machine/CrcCommands.lean ====
section
/-! DEFINITION. The accumulator commands CRC8_CLEAR and CRC8_UPDATE (R82, R83). -/

namespace Sys2Proof.Machine

/-- `CRC8_CLEAR` (R82). -/
def execCrc8Clear (s : State) : Host.Outcome State Fault Refusal :=
  .next (complete 0 { s with crcAcc := 0x00 })

/-- `CRC8_UPDATE d8` (R83); `result` is the new accumulator. -/
def execCrc8Update (d8 : BitVec 8) (s : State) : Host.Outcome State Fault Refusal :=
  .next (complete ((crc8TableByte s.crcAcc d8).setWidth 32) { s with crcAcc := crc8TableByte s.crcAcc d8 })

end Sys2Proof.Machine
end

