-- ==== Sys2Proof/Machine/Flags.lean ====
section
/-! DEFINITION. The codes the block gives its flags and outcomes (R28, R37, R103), and the STATUS view (R38). -/

namespace Sys2Proof.Machine

/-- `rx_err_code` (R28). -/
def reasonCode : Option FrameReason → BitVec 2
  | none => 0
  | some .badPacket => 1
  | some .badCrc => 2
  | some .invalidLength => 3

/-- `cmd_result` (R37). -/
def cmdCode : CmdResult → BitVec 3
  | .ok => 0
  | .illegal => 1
  | .busy => 2
  | .range => 3

/-- What one received byte came to: the source's 0 (nothing yet), 1 (packet ready), -1 (frame error) (R36, R95). -/
inductive RxOutcome where
  | nothing
  | ready
  | frameError
  deriving DecidableEq, Repr

/-- `result <- (r == -1) ? 0xFFFFFFFF : zext_32(r)` (R103). -/
def outcomeWord : RxOutcome → Word
  | .nothing => 0
  | .ready => 1
  | .frameError => 0xFFFFFFFF

/-- A flag as a 32-bit number. -/
def flagWord (b : Bool) : Word := if b then 1 else 0

/-- `STATUS` (R38): the flags and codes, each at its place; bits 31 to 11 read 0. -/
def status (s : State) : Word :=
  flagWord s.rxReady
    ||| flagWord s.rxErr <<< 1
    ||| (reasonCode s.rxErrCode).setWidth 32 <<< 2
    ||| flagWord s.rxEsc <<< 4
    ||| flagWord s.rxOvf <<< 5
    ||| flagWord s.rxDiscard <<< 6
    ||| flagWord s.txValid <<< 7
    ||| (cmdCode s.cmdResult).setWidth 32 <<< 8

end Sys2Proof.Machine
end

