-- ==== Sys2Proof/Machine/Frame.lean ====
section
/-! DEFINITION. The wire frame (R71 to R74): its constants (R8), escaping (R84), building a frame (R85) and the checks a closed
frame must pass (R96), each a function on byte lists. -/

namespace Sys2Proof.Machine

/-- `FLAG`, the frame delimiter (R8). -/
def flagByte : Byte := 0x7E
/-- `ESC`, the escape character (R8). -/
def escByte : Byte := 0x7D
/-- `XMASK`, the escape mask (R8). -/
def escMask : Byte := 0x20
/-- `MAGIC`, header byte 0 (R8). -/
def magicByte : Byte := 0x55
/-- `HDR`, the header size (R8). -/
def headerSize : Nat := 8
/-- The packet type `ACK` (R8). -/
def typeAck : BitVec 3 := 0
/-- The packet type `PROTOBUF` (R8). -/
def typeProtobuf : BitVec 3 := 1

/-- `Esc(b)` (R84). -/
def escapeByte (b : Byte) : List Byte := if b = flagByte ∨ b = escByte then [escByte, b ^^^ escMask] else [b]

/-- `EscAll(L)` (R84). -/
def escapeAll (l : List Byte) : List Byte := l.flatMap escapeByte

/-- Header bytes 0 to 6 (R72, R85): magic, `hb1`, transaction id, the payload length little-endian (R52), the payload's CRC,
the reserved byte 0. -/
def headerStart (hb1 tid : Byte) (p : List Byte) : List Byte :=
  [magicByte, hb1, tid, BitVec.ofNat 8 p.length, BitVec.ofNat 8 (p.length >>> 8), crc8 p, 0x00]

/-- The 8 header bytes `H` (R72, R85): the header CRC last, over bytes 0 to 6 (R74). -/
def buildHeader (hb1 tid : Byte) (p : List Byte) : List Byte :=
  headerStart hb1 tid p ++ [crc8 (headerStart hb1 tid p)]

/-- `F` of `BuildFrame(hb1, tid, P)` (R85): one delimiter, the escaped header and payload, one delimiter. -/
def buildFrame (hb1 tid : Byte) (p : List Byte) : List Byte :=
  [flagByte] ++ escapeAll (buildHeader hb1 tid p ++ p) ++ [flagByte]

/-- The payload length `N = H[3] | H[4] << 8` that a header declares (R52). -/
def declaredLength (b : List Byte) : Nat := (b.getD 4 0 ++ b.getD 3 0).toNat

/-- The packet type `H[1][2:0]` of a header (R73). -/
def packetType (b : List Byte) : BitVec 3 := (b.getD 1 0).extractLsb' 0 3

/-- The value `H[1][7:3]` of a header (R73). -/
def packetValue (b : List Byte) : BitVec 5 := (b.getD 1 0).extractLsb' 3 5

end Sys2Proof.Machine
end

