-- ==== Sys2Proof/Machine/Operands.lean ====
section
/-! DEFINITION. What a command's operands stand for (R65): the header byte a `TX_ENCODE` word carries, and the range each index
or length operand must lie in (R88, R89, R91, R106). -/

namespace Sys2Proof.Machine

/-- `HB1 = (VAL5 << 3) | TYPE3`, header byte 1 (R65, R73). -/
def hb1 (type3 : BitVec 3) (val5 : BitVec 5) : Byte := val5 ++ type3

/-- `RX_READ`'s index names a buffered byte: not `IDX18 >= rx_count` (R106). -/
def rxIndexInRange (s : State) (idx18 : BitVec 18) : Bool := idx18.toNat < s.rxCount.toNat

/-- `TXP_WRITE`'s index names a payload byte: not `IDX16 >= MAX_TX_PAYLOAD` (R88). -/
def txpIndexInRange (s : State) (idx16 : BitVec 16) : Bool := idx16.toNat < s.cfg.maxTxPayload.val

/-- `TX_SETLEN`'s length fits the payload buffer: not `LEN16 > MAX_TX_PAYLOAD` (R89). -/
def txLenInRange (s : State) (len16 : BitVec 16) : Bool := len16.toNat ≤ s.cfg.maxTxPayload.val

/-- `TXF_READ`'s index names a byte of the built frame: not `IDX18 >= tx_frame_len` (R91). -/
def txfIndexInRange (s : State) (idx18 : BitVec 18) : Bool := idx18.toNat < s.txFrameLen.toNat

end Sys2Proof.Machine
end

