-- ==== Sys2Proof/Machine/Receive.lean ====
section
/-! DEFINITION. The frame decoder (R92 to R97) and the receive commands RX_PUSH, RX_POLL, RX_RELEASE, RX_READ (R103 to R106). -/

namespace Sys2Proof.Machine

/-! ## The decoder's conditions (R92) -/

/-- IDLE: nothing buffered (R92). -/
def isIdle (s : State) : Bool := !s.rxReady && s.rxCount == 0 && !s.rxEsc && !s.rxOvf

/-- RECEIVING (R92). -/
def isReceiving (s : State) : Bool := !s.rxReady && !s.rxEsc && !s.rxOvf && s.rxCount != 0

/-- ESCAPED (R92). -/
def isEscaped (s : State) : Bool := !s.rxReady && s.rxEsc

/-- OVERFLOWED (R92). -/
def isOverflowed (s : State) : Bool := !s.rxReady && s.rxOvf

/-- HELD (R92). -/
def isHeld (s : State) : Bool := s.rxReady

/-! ## The receive timeout (R93) -/

/-- There is a partial frame (R16, R93). -/
def hasPartial (s : State) : Bool := !s.rxReady && (s.rxCount != 0 || s.rxEsc || s.rxOvf)

/-- `(now_ms - rx_last_ms) mod 2^32` (R93). -/
def elapsedMs (s : State) : Word := s.nowMs - s.rxLastMs

/-- What `TimeoutCheck()` returns: a partial frame, and more than `rx_timeout` milliseconds since the last byte (R93). -/
def timedOut (s : State) : Bool := hasPartial s && decide (s.rxTimeout.toNat < (elapsedMs s).toNat)

/-- Discard the partial frame (R93). -/
def discardPartial (s : State) : State :=
  { s with rxCount := 0, rxEsc := false, rxOvf := false, rxDiscard := true }

/-- What `TimeoutCheck()` does (R93). -/
def timeoutCheck (s : State) : State := if timedOut s then discardPartial s else s

/-! ## One byte (R94 to R97) -/

/-- `Store(d)` (R94). -/
def storeByte (d : Byte) (s : State) : Except Fault State :=
  if s.rxCount.toNat < s.cfg.rxBufSize then
    match memWrite .rxb s.rxCount.toNat d s with
    | .ok t => .ok { t with rxCount := t.rxCount + 1 }
    | .error f => .error f
  else .ok { s with rxOvf := true }

/-- What `Validate()` returns (R96): EMPTY, NONE (accepted), or a reason. -/
inductive Verdict where
  | empty
  | accepted
  | rejected (r : FrameReason)
  deriving DecidableEq, Repr

/-- `Validate()` (R96) on the flags and the bytes `B` buffered: the nine checks in their order. -/
def validate (esc ovf : Bool) (b : List Byte) : Verdict :=
  if esc then .rejected .badPacket
  else if ovf then .rejected .invalidLength
  else if b.length = 0 then .empty
  else if b.length < headerSize then .rejected .invalidLength
  else if declaredLength b ≠ b.length - headerSize then .rejected .invalidLength
  else if crc8 (b.take 7) ≠ b.getD 7 0 then .rejected .badCrc
  else if crc8 (b.drop 8) ≠ b.getD 5 0 then .rejected .badCrc
  else if b.getD 0 0 ≠ magicByte then .rejected .badPacket
  else if packetType b ≠ typeAck ∧ packetType b ≠ typeProtobuf then .rejected .badPacket
  else .accepted

/-- A frame error: the frame is discarded and its reason recorded (R97). -/
def rejectFrame (r : FrameReason) (s : State) : State :=
  { s with rxCount := 0, rxEsc := false, rxOvf := false, rxErr := true, rxErrCode := some r }

/-- An accepted frame is held in `RXB` (R97). -/
def holdFrame (s : State) : State := { s with rxReady := true }

/-- What `EndOfFrame()` does with the verdict of `Validate()` (R97). -/
def closeFrame (v : Verdict) (s : State) : State × RxOutcome :=
  match v with
  | .empty => (s, .nothing)
  | .accepted => (holdFrame s, .ready)
  | .rejected r => (rejectFrame r s, .frameError)

/-- `EndOfFrame()` (R97): `Validate()` over `B = RXB[0 .. rx_count)`. -/
def endOfFrame (s : State) : Except Fault (State × RxOutcome) :=
  match memReadRange s .rxb s.rxCount.toNat with
  | .ok b => .ok (closeFrame (validate s.rxEsc s.rxOvf b) s)
  | .error f => .error f

/-- A data byte goes to `Store`, which is no event (R95). -/
def dataByte (d : Byte) (s : State) : Except Fault (State × RxOutcome) :=
  match storeByte d s with
  | .ok t => .ok (t, .nothing)
  | .error f => .error f

/-- `ByteIn(d)` (R95). -/
def byteIn (d : Byte) (s : State) : Except Fault (State × RxOutcome) :=
  if d = flagByte then endOfFrame s
  else if s.rxEsc then dataByte (d ^^^ escMask) { s with rxEsc := false }
  else if d = escByte then .ok ({ s with rxEsc := true }, .nothing)
  else dataByte d s

/-! ## The commands -/

/-- The state in which `RX_PUSH` takes its byte: after the timeout check, the byte's time recorded (R103). -/
def beforeByte (s : State) : State := { timeoutCheck s with rxLastMs := s.nowMs }

/-- `RX_PUSH d8` (R103). -/
def execRxPush (d8 : BitVec 8) (s : State) : Host.Outcome State Fault Refusal :=
  if s.rxReady then .next (cmdError .busy s)
  else
    match byteIn d8 (beforeByte s) with
    | .ok (t, r) => .next (complete (outcomeWord r) t)
    | .error f => .fault f

/-- `RX_POLL` (R104). -/
def execRxPoll (s : State) : Host.Outcome State Fault Refusal :=
  .next (complete (flagWord (timedOut s)) (timeoutCheck s))

/-- The held frame, if there is one, is freed (R105). -/
def freeHeld (s : State) : State := if s.rxReady then { s with rxReady := false, rxCount := 0 } else s

/-- The sticky receive flags are cleared (R105). -/
def clearSticky (s : State) : State := { s with rxErr := false, rxErrCode := none, rxDiscard := false }

/-- `RX_RELEASE` (R105). -/
def execRxRelease (s : State) : Host.Outcome State Fault Refusal :=
  .next (complete 0 (clearSticky (freeHeld s)))

/-- `RX_READ idx` (R106). -/
def execRxRead (idx18 : BitVec 18) (s : State) : Host.Outcome State Fault Refusal :=
  if rxIndexInRange s idx18 then
    match memRead s .rxb idx18.toNat with
    | .ok v => .next (complete (v.setWidth 32) s)
    | .error f => .fault f
  else .next (cmdError .range s)

end Sys2Proof.Machine
end

