-- ==== Sys2Proof/Machine/Transmit.lean ====
section
/-! DEFINITION. The transmit commands TXP_WRITE, TX_SETLEN, TX_ENCODE, TXF_READ (R88 to R91). -/

namespace Sys2Proof.Machine

/-- `TXP_WRITE idx, d8` (R88). -/
def execTxpWrite (idx16 : BitVec 16) (d8 : BitVec 8) (s : State) : Host.Outcome State Fault Refusal :=
  if txpIndexInRange s idx16 then
    match memWrite .txp idx16.toNat d8 s with
    | .ok t => .next (complete 0 t)
    | .error f => .fault f
  else .next (cmdError .range s)

/-- `TX_SETLEN len` (R89). -/
def execTxSetLen (len16 : BitVec 16) (s : State) : Host.Outcome State Fault Refusal :=
  if txLenInRange s len16 then .next (complete 0 { s with txLen := len16 })
  else .next (cmdError .range s)

/-- The frame that a `TX_ENCODE` builds from the payload `TXP[0 .. tx_len)` (R85, R90). -/
def frameToSend (tid8 : BitVec 8) (type3 : BitVec 3) (val5 : BitVec 5) (s : State) : List Byte :=
  buildFrame (hb1 type3 val5) tid8 (bytesAt s .txp s.txLen.toNat)

/-- A built frame of `n` bytes is recorded (R90). -/
def recordFrame (n : Nat) (s : State) : State :=
  { s with txFrameLen := BitVec.ofNat 18 n, txValid := true }

/-- The frame `F` is written to `TXF[0 .. len(F))` and its length recorded and returned (R90). -/
def writeFrame (f : List Byte) (s : State) : Host.Outcome State Fault Refusal :=
  match memWriteRange .txf f s with
  | .ok t => .next (complete (BitVec.ofNat 32 f.length) (recordFrame f.length t))
  | .error e => .fault e

/-- `TX_ENCODE tid, type, value` (R90). -/
def execTxEncode (tid8 : BitVec 8) (type3 : BitVec 3) (val5 : BitVec 5) (s : State) :
    Host.Outcome State Fault Refusal :=
  match memReadRange s .txp s.txLen.toNat with
  | .ok p => writeFrame (buildFrame (hb1 type3 val5) tid8 p) s
  | .error e => .fault e

/-- `TXF_READ idx` (R91). -/
def execTxfRead (idx18 : BitVec 18) (s : State) : Host.Outcome State Fault Refusal :=
  if txfIndexInRange s idx18 then
    match memRead s .txf idx18.toNat with
    | .ok v => .next (complete (v.setWidth 32) s)
    | .error f => .fault f
  else .next (cmdError .range s)

end Sys2Proof.Machine
end

