-- ==== Sys2Proof/Machine/Dispatch.lean ====
section
/-! DEFINITION. One arm per command (R66, R107), each one call of its meaning. -/

namespace Sys2Proof.Machine

def exec (i : Instr) (s : State) : Host.Outcome State Fault Refusal :=
  match i with
  | .nop => Sys2Proof.Machine.execNop s
  | .rxPush d8 => Sys2Proof.Machine.execRxPush d8 s
  | .rxPoll => Sys2Proof.Machine.execRxPoll s
  | .rxRelease => Sys2Proof.Machine.execRxRelease s
  | .rxRead idx18 => Sys2Proof.Machine.execRxRead idx18 s
  | .txpWrite idx16 d8 => Sys2Proof.Machine.execTxpWrite idx16 d8 s
  | .txSetLen len16 => Sys2Proof.Machine.execTxSetLen len16 s
  | .txEncode tid8 type3 val5 => Sys2Proof.Machine.execTxEncode tid8 type3 val5 s
  | .txfRead idx18 => Sys2Proof.Machine.execTxfRead idx18 s
  | .crc8Clear => Sys2Proof.Machine.execCrc8Clear s
  | .crc8Update d8 => Sys2Proof.Machine.execCrc8Update d8 s
  | .setTimeout imm24 => Sys2Proof.Machine.execSetTimeout imm24 s
  | .softReset => Sys2Proof.Machine.execSoftReset s

end Sys2Proof.Machine
end

