-- ==== Sys2Proof/Machine/Step.lean ====
section
/-! DEFINITION. One step (R15, R107): the host's next command word, decoded and executed whole. -/

namespace Sys2Proof.Machine

/-- `Step(state, cmd, now_ms)` (R15, R107), the command taken from the host's list. With nothing to take HFC does nothing and
its state persists (R126; log entry 3). -/
def step (s : State) : Host.Outcome State Fault Refusal :=
  match takeCommand s with
  | none => .next s
  | some (cmd, t) =>
    match decode cmd with
    | .ok i => exec i t
    | .error _ => .next (illegalWord t)

/-- The host's next write to the command port is the word `w`, at the time of the last one (log entry 2). A command word has
one length (R63), so the bits above `nbits` are those of `w` itself, 0. -/
def State.withFetchWord (s : State) (_nbits w : Nat) : State := s.offer (BitVec.ofNat 32 w) s.nowMs

end Sys2Proof.Machine
end

