-- ==== Sys2Proof/WellFormed.lean ====
section
/-! DEFINITION. The check that an assembly statement is a command (R69): a known mnemonic, as many operands as it takes, and
every operand within its field ("must fit their field (an assembler refuses one that does not)"). What passes is an `Instr`;
a term of `Instr` itself is always well formed, since its operands have their fields' widths. -/

namespace Sys2Proof

/-- A command as it is written before its operands are checked: the mnemonic and the operands in the order of R69. -/
structure Asm where
  mnemonic : String
  operands : List Nat
  deriving DecidableEq, Repr

/-- The width in bits of each operand a mnemonic takes, in the order of R69 (the fields' widths are those of R65). -/
def operandWidths : String → Option (List Nat)
  | "NOP" => some []
  | "RX_PUSH" => some [8]
  | "RX_POLL" => some []
  | "RX_RELEASE" => some []
  | "RX_READ" => some [18]
  | "TXP_WRITE" => some [16, 8]
  | "TX_SETLEN" => some [16]
  | "TX_ENCODE" => some [8, 3, 5]
  | "TXF_READ" => some [18]
  | "CRC8_CLEAR" => some []
  | "CRC8_UPDATE" => some [8]
  | "SET_TIMEOUT" => some [24]
  | "SOFT_RESET" => some []
  | _ => none

/-- Every operand fits the field of its place, and there is neither one too many nor one too few. -/
def operandsFit : List Nat → List Nat → Bool
  | [], [] => true
  | w :: ws, v :: vs => decide (v < 2 ^ w) && operandsFit ws vs
  | _, _ => false

/-- The statement is a command of R66 with operands that fit (R69). -/
def Asm.wellFormed (a : Asm) : Bool :=
  match operandWidths a.mnemonic with
  | some ws => operandsFit ws a.operands
  | none => false

end Sys2Proof
end

