-- ==== Sys2Proof/Machine/Assembler.lean ====
section
/-! DEFINITION. The assembler notation of R69 and its pseudo-instructions (R70): from lines of text to what the host writes to
the command port. A line is a list of characters. Log entry 7 names what R69 leaves open of the text. -/

namespace Sys2Proof.Machine

/-! ## Statements -/

/-- The command a well-formed statement is (R69). -/
def commandOf (a : Asm) : Option Instr :=
  if a.wellFormed then
    match a.mnemonic, a.operands with
    | "NOP", [] => some .nop
    | "RX_PUSH", [d8] => some (.rxPush (BitVec.ofNat 8 d8))
    | "RX_POLL", [] => some .rxPoll
    | "RX_RELEASE", [] => some .rxRelease
    | "RX_READ", [idx] => some (.rxRead (BitVec.ofNat 18 idx))
    | "TXP_WRITE", [idx, d8] => some (.txpWrite (BitVec.ofNat 16 idx) (BitVec.ofNat 8 d8))
    | "TX_SETLEN", [len] => some (.txSetLen (BitVec.ofNat 16 len))
    | "TX_ENCODE", [tid, type, value] =>
      some (.txEncode (BitVec.ofNat 8 tid) (BitVec.ofNat 3 type) (BitVec.ofNat 5 value))
    | "TXF_READ", [idx] => some (.txfRead (BitVec.ofNat 18 idx))
    | "CRC8_CLEAR", [] => some .crc8Clear
    | "CRC8_UPDATE", [d8] => some (.crc8Update (BitVec.ofNat 8 d8))
    | "SET_TIMEOUT", [ms] => some (.setTimeout (BitVec.ofNat 24 ms))
    | "SOFT_RESET", [] => some .softReset
    | _, _ => none
  else none

/-- The operands as bytes, if there is at least one and each fits a byte. -/
def bytesOf (ops : List Nat) : Option (List Byte) :=
  if ops ≠ [] ∧ ops.all (fun v => decide (v < 256)) then some (ops.map (BitVec.ofNat 8)) else none

/-- `RX_PUSHS b0, ..., bk` (R70). -/
def expandRxPushs (bs : List Byte) : List Instr := bs.map .rxPush

/-- `TXP_WRITE i, b0`, `TXP_WRITE i+1, b1`, and so on. -/
def txpWritesFrom : Nat → List Byte → List Instr
  | _, [] => []
  | i, b :: bs => .txpWrite (BitVec.ofNat 16 i) b :: txpWritesFrom (i + 1) bs

/-- `TXP_LOAD b0, ..., b(k-1)` (R70). -/
def expandTxpLoad (bs : List Byte) : List Instr :=
  txpWritesFrom 0 bs ++ [.txSetLen (BitVec.ofNat 16 bs.length)]

/-- `CRC8_BYTES b0, ..., bk` (R70). -/
def expandCrc8Bytes (bs : List Byte) : List Instr := .crc8Clear :: bs.map .crc8Update

/-- The commands of one statement, pseudo-instructions expanded (R69, R70). `TXP_LOAD` takes at most 65535 bytes: its
`TX_SETLEN` operand must fit its field. -/
def commandsOf (a : Asm) : Option (List Instr) :=
  match a.mnemonic with
  | "RX_PUSHS" => (bytesOf a.operands).map expandRxPushs
  | "TXP_LOAD" =>
    if a.operands.length < 65536 then (bytesOf a.operands).map expandTxpLoad else none
  | "CRC8_BYTES" => (bytesOf a.operands).map expandCrc8Bytes
  | _ => (commandOf a).map fun i => [i]

/-! ## Text -/

/-- A space or a tab. -/
def isBlank (c : Char) : Bool := c == ' ' || c == '\t'

/-- The text without the blanks at its two ends. -/
def trimBlanks (l : List Char) : List Char :=
  ((l.dropWhile isBlank).reverse.dropWhile isBlank).reverse

/-- The pieces of the text between the occurrences of a character. -/
def piecesAt (c : Char) : List Char → List (List Char)
  | [] => [[]]
  | x :: xs =>
    if x = c then [] :: piecesAt c xs
    else
      match piecesAt c xs with
      | [] => [[x]]
      | p :: ps => (x :: p) :: ps

/-- How far a character stands from `first`, if it is one of the `count` characters from there on. -/
def placeFrom (first : Char) (count : Nat) (c : Char) : Option Nat :=
  (List.range count).find? fun k => first.toNat + k == c.toNat

/-- A digit of a decimal operand (R69). -/
def decimalDigit (c : Char) : Option Nat := placeFrom '0' 10 c

/-- A digit of a hexadecimal operand (R69): a decimal one, or one of the six letters, capital or small (log entry 7). -/
def hexDigit (c : Char) : Option Nat :=
  decimalDigit c <|> (placeFrom 'A' 6 c <|> placeFrom 'a' 6 c).map fun k => 10 + k

/-- The digits of a base read on to the number `acc`. -/
def digitsFrom (base : Nat) (digit : Char → Option Nat) : Nat → List Char → Option Nat
  | acc, [] => some acc
  | acc, c :: cs => (digit c).bind fun d => digitsFrom base digit (acc * base + d) cs

/-- An operand: decimal, or hexadecimal after `0x` (R69). -/
def numberOf : List Char → Option Nat
  | [] => none
  | '0' :: 'x' :: c :: cs => digitsFrom 16 hexDigit 0 (c :: cs)
  | c :: cs => digitsFrom 10 decimalDigit 0 (c :: cs)

/-- Every text a number, or nothing. -/
def numbersOf : List (List Char) → Option (List Nat)
  | [] => some []
  | t :: ts =>
    match numberOf (trimBlanks t), numbersOf ts with
    | some n, some ns => some (n :: ns)
    | _, _ => none

/-- Mnemonic, blanks, operands with commas between them (R69). -/
def statementOf (l : List Char) : Option Asm :=
  let rest := trimBlanks (l.dropWhile fun c => !isBlank c)
  let operands := if rest = [] then some [] else numbersOf (piecesAt ',' rest)
  operands.map fun ops => { mnemonic := String.ofList (l.takeWhile fun c => !isBlank c), operands := ops }

/-! ## Lines -/

/-- Why a line is refused. -/
inductive AsmError where
  /-- The text before `@` and `;` is not a mnemonic with numbers. -/
  | badText
  /-- No command or pseudo-instruction, or operands that do not fit (R69). -/
  | badStatement
  /-- `@` is not followed by one 32-bit number, or stands on a line without a command. -/
  | badTime
  deriving DecidableEq, Repr

/-- The statement at time `t`, as writes to the command port. -/
def writesOf (t : Nat) (l : List Char) : Except AsmError (List PortWrite) :=
  match statementOf l with
  | none => .error .badText
  | some a =>
    match commandsOf a with
    | none => .error .badStatement
    | some is => .ok (is.map fun i => { word := encode i, nowMs := BitVec.ofNat 32 t })

/-- One line, given the time of the line before it: the line's own time, and its writes (R69). -/
def assembleLine (t : Nat) (line : List Char) : Except AsmError (Nat × List PortWrite) :=
  match piecesAt '@' (line.takeWhile fun c => c != ';') with
  | [l] =>
    if trimBlanks l = [] then .ok (t, [])
    else
      match writesOf t (trimBlanks l) with
      | .ok ws => .ok (t, ws)
      | .error e => .error e
  | [l, time] =>
    match numberOf (trimBlanks time) with
    | none => .error .badTime
    | some t' =>
      if t' < 2 ^ 32 ∧ trimBlanks l ≠ [] then
        match writesOf t' (trimBlanks l) with
        | .ok ws => .ok (t', ws)
        | .error e => .error e
      else .error .badTime
  | _ => .error .badTime

/-- The lines of a program, the time carried from one to the next (R69). -/
def assembleFrom (t : Nat) : List (List Char) → Except AsmError (List PortWrite)
  | [] => .ok []
  | line :: lines =>
    match assembleLine t line with
    | .error e => .error e
    | .ok (t', ws) =>
      match assembleFrom t' lines with
      | .error e => .error e
      | .ok rest => .ok (ws ++ rest)

/-- A program: `now_ms` is 0 until a line gives it (R69). -/
def assemble (lines : List (List Char)) : Except AsmError (List PortWrite) := assembleFrom 0 lines

end Sys2Proof.Machine
end

