-- ==== Sys2Proof/Machine/ReadPort.lean ====
section
/-! DEFINITION. The read port (R50): what the host reads at each offset, the views of R38 to R41. Reading is a function of the
state and changes nothing. -/

namespace Sys2Proof.Machine

/-- Four bytes of `RXB` in one register, the first argument's lowest (R39, R53). -/
def rxPacked (s : State) (i0 i1 i2 i3 : Nat) : Word :=
  byteAt s .rxb i3 ++ byteAt s .rxb i2 ++ byteAt s .rxb i1 ++ byteAt s .rxb i0

/-- `RX_INFO` (R39): header bytes 1 to 4 of the held frame, else 0. -/
def rxInfo (s : State) : Word := if s.rxReady then rxPacked s 1 2 3 4 else 0

/-- `RX_CRC` (R39): header bytes 0, 5, 6, 7 of the held frame, else 0. -/
def rxCrc (s : State) : Word := if s.rxReady then rxPacked s 0 5 6 7 else 0

/-- `Read(state, offset)` (R50). -/
def readPort (s : State) (offset : BitVec 8) : Word :=
  match offset.toNat with
  | 0x00 => status s
  | 0x04 => s.result
  | 0x08 => s.rxCount.setWidth 32
  | 0x0C => rxInfo s
  | 0x10 => rxCrc s
  | 0x14 => s.txLen.setWidth 32
  | 0x18 => s.txFrameLen.setWidth 32
  | 0x1C => s.crcAcc.setWidth 32
  | 0x20 => s.rxTimeout.setWidth 32
  | 0x24 => BitVec.ofNat 32 s.cfg.rxBufSize
  | 0x28 => BitVec.ofNat 32 s.cfg.maxTxPayload.val
  | _ => 0

end Sys2Proof.Machine
end

