-- ==== Sys2Proof/Safety.lean ====
section
/-! DEFINITION. The terms in which claims about HFC are made: runs of several commands (R15), the invariant of reachable states
(R44 with the ranges of R22), staleness in plain arithmetic (R93), illegal words (R67), the reset values (R127), what a good
frame is (R96), and which elements belong to the receive and to the transmit path (R139). -/

namespace Sys2Proof.Machine

/-! ## Runs -/

/-- `k` steps, stopping at the first that does not answer a next state. -/
def runFor : Nat → State → Host.Outcome State Fault Refusal
  | 0, s => .next s
  | k + 1, s =>
    match step s with
    | .next t => runFor k t
    | .fault f => .fault f
    | .refused r => .refused r

/-- What a host writes to the port to issue these commands at these times. -/
def writesFor (is : List (Instr × Word)) : List PortWrite :=
  is.map fun x => { word := encode x.1, nowMs := x.2 }

/-- What a host writes to push these bytes at these times. -/
def pushesFor (bs : List (Byte × Word)) : List PortWrite :=
  writesFor (bs.map fun x => (.rxPush x.1, x.2))

/-- Each time is at most `timeout` milliseconds, modulo 2^32, after the one before it; the first is after `last`. -/
def inTimeAfter (timeout : Nat) : Word → List (Byte × Word) → Prop
  | _, [] => True
  | last, (_, t) :: rest => (t.toNat + 2 ^ 32 - last.toNat) % 2 ^ 32 ≤ timeout ∧ inTimeAfter timeout t rest

/-- "With no timeout between them" (R100, R101): nothing is asked of the first byte's time. -/
def inTime (timeout : Nat) : List (Byte × Word) → Prop
  | [] => True
  | (_, t) :: rest => inTimeAfter timeout t rest

/-! ## Words -/

/-- A word that is no command (R67): a reserved opcode, or a 1 in a must-be-zero bit of its opcode's format. -/
def IllegalWord (w : Word) : Prop :=
  13 ≤ w.toNat % 16 ∨ ∃ r ∈ opcodeTable, r.op.toNat = w.toNat % 16 ∧ w &&& r.format.mbz ≠ 0#32

/-- Every word with this opcode and a 1 in one of these bits is an ILLEGAL step (R13, R67), in every state and at every time. -/
def IllegalWithBits (op : Nat) (bits : Word) : Prop :=
  ∀ (s : State) (w t : Word), w.toNat % 16 = op → w &&& bits ≠ 0#32 →
    step (s.offer w t) = .next { s with nowMs := t, result := 0, cmdResult := .illegal }

/-! ## The receive side -/

/-- A partial frame (R16, R93). -/
def Partial (s : State) : Prop :=
  s.rxReady = false ∧ (s.rxCount ≠ 0 ∨ s.rxEsc = true ∨ s.rxOvf = true)

/-- A partial frame whose last byte is more than `rx_timeout` milliseconds old, modulo 2^32 (R93). -/
def Stale (s : State) : Prop :=
  Partial s ∧ s.rxTimeout.toNat < (s.nowMs.toNat + 2 ^ 32 - s.rxLastMs.toNat) % 2 ^ 32

/-- The decoder is IDLE (R92). -/
def Idle (s : State) : Prop :=
  s.rxReady = false ∧ s.rxCount = 0 ∧ s.rxEsc = false ∧ s.rxOvf = false

/-- The bytes buffered, `RXB[0 .. rx_count)` (R23). -/
def buffered (s : State) : List Byte := bytesAt s .rxb s.rxCount.toNat

/-- The buffered bytes are as many as a header and the payload it declares (checks 4 and 5 of R96). -/
def LengthGood (b : List Byte) : Prop :=
  8 ≤ b.length ∧ b.length = 8 + ((b.getD 3 0).toNat + 256 * (b.getD 4 0).toNat)

/-- Both CRCs are right (checks 6 and 7 of R96). -/
def CrcGood (b : List Byte) : Prop := crc8 (b.take 7) = b.getD 7 0 ∧ crc8 (b.drop 8) = b.getD 5 0

/-- The magic byte and a packet type ACK or PROTOBUF (checks 8 and 9 of R96). -/
def PacketGood (b : List Byte) : Prop := b.getD 0 0 = 0x55 ∧ (b.getD 1 0).toNat % 8 ≤ 1

/-! ## Reset -/

/-- Every element of R22 at its reset value (R127), every buffer byte the free value of its draw. -/
structure AtReset (s : State) : Prop where
  rxCount : s.rxCount = 0
  rxEsc : s.rxEsc = false
  rxOvf : s.rxOvf = false
  rxReady : s.rxReady = false
  rxErr : s.rxErr = false
  rxErrCode : s.rxErrCode = none
  rxDiscard : s.rxDiscard = false
  rxLastMs : s.rxLastMs = 0
  rxTimeout : s.rxTimeout = 100
  txLen : s.txLen = 0
  txFrameLen : s.txFrameLen = 0
  txValid : s.txValid = false
  crcAcc : s.crcAcc = 0x00
  result : s.result = 0
  cmdResult : s.cmdResult = .ok
  buffers : ∀ b i, byteAt s b i = Config.unwritten b s.draws i

/-! ## The invariant -/

/-- A buffer's contents are in canonical form and within its size. -/
def BufferForm (s : State) (b : BufferId) : Prop :=
  Memory.wf (s.mem b) = true ∧ Memory.below (s.cfg.size b) (s.mem b) = true

/-- Every byte of the buffer below `n` has been written since the last reset. -/
def WrittenBelow (s : State) (b : BufferId) (n : Nat) : Prop :=
  ∀ i, i < n → (Memory.read? (s.mem b) i).isSome = true

/-- What holds in every reachable state: the ranges of R22, the five invariants of R44, the buffers' canonical form, and that
every readable byte of RXB and TXF has been written (R127, R130). -/
structure Inv (s : State) : Prop where
  countRange : s.rxCount.toNat ≤ s.cfg.rxBufSize
  lenRange : s.txLen.toNat ≤ s.cfg.maxTxPayload.val
  frameRange : s.txFrameLen = 0 ∨ (10 ≤ s.txFrameLen.toNat ∧ s.txFrameLen.toNat ≤ s.cfg.txfSize)
  /-- R44 item 1. -/
  held : s.rxReady = true →
    s.rxEsc = false ∧ s.rxOvf = false ∧ 8 ≤ s.rxCount.toNat ∧
    s.rxCount.toNat = 8 + ((byteAt s .rxb 3).toNat + 256 * (byteAt s .rxb 4).toNat) ∧
    CrcGood (buffered s) ∧ PacketGood (buffered s)
  /-- R44 item 2. -/
  overflow : s.rxOvf = true → s.rxCount.toNat = s.cfg.rxBufSize
  /-- R44 item 3. -/
  errorCode : s.rxErr = false ↔ s.rxErrCode = none
  /-- R44 item 4. -/
  frameBuilt : s.txValid = false ↔ s.txFrameLen = 0
  /-- R44 item 5. -/
  cmdResultRange : (cmdCode s.cmdResult).toNat ≤ 3
  bufferForm : ∀ b, BufferForm s b
  rxWritten : WrittenBelow s .rxb s.rxCount.toNat
  txWritten : WrittenBelow s .txf s.txFrameLen.toNat

/-! ## The two paths -/

/-- The commands of the receive path: those of 42_decoder.md section 4, and SET_TIMEOUT. -/
def onReceivePath : Instr → Bool
  | .rxPush _ | .rxPoll | .rxRelease | .rxRead _ | .setTimeout _ => true
  | .nop | .txpWrite _ _ | .txSetLen _ | .txEncode _ _ _ | .txfRead _ | .crc8Clear | .crc8Update _ | .softReset => false

/-- The commands of the transmit path: those of 41_encoder.md section 2. -/
def onTransmitPath : Instr → Bool
  | .txpWrite _ _ | .txSetLen _ | .txEncode _ _ _ | .txfRead _ => true
  | .nop | .rxPush _ | .rxPoll | .rxRelease | .rxRead _ | .setTimeout _ | .crc8Clear | .crc8Update _ | .softReset => false

/-- The two states have the same receive-side elements (R22, 10_state.md section 4). -/
def SameReceive (s t : State) : Prop :=
  s.rxCount = t.rxCount ∧ s.rxEsc = t.rxEsc ∧ s.rxOvf = t.rxOvf ∧ s.rxReady = t.rxReady ∧ s.rxErr = t.rxErr ∧
  s.rxErrCode = t.rxErrCode ∧ s.rxDiscard = t.rxDiscard ∧ s.rxLastMs = t.rxLastMs ∧ s.rxTimeout = t.rxTimeout ∧
  s.rxb = t.rxb

/-- The two states have the same transmit-side elements (R22, 10_state.md section 5). -/
def SameTransmit (s t : State) : Prop :=
  s.txLen = t.txLen ∧ s.txFrameLen = t.txFrameLen ∧ s.txValid = t.txValid ∧ s.txp = t.txp ∧ s.txf = t.txf

/-- The two states belong to one instance (R21), at one draw of its buffers, and see the same time. -/
def SameInstance (s t : State) : Prop := s.cfg = t.cfg ∧ s.draws = t.draws ∧ s.nowMs = t.nowMs

end Sys2Proof.Machine
end

