-- ==== Sys2Proof/Certificates/Slice0/Obligations.lean ====
section
/-! DEFINITION. The statements for the provers. Each docstring names the rules of spec/ it formalises. -/

open Sys2Proof Sys2Proof.Machine

/-! ## The step and the encoding -/

/-- R107, R15: a word that decodes to a command is that command's `exec`, on the state in which the word is taken off the
host's list and its time is sampled (the list and the sampled time are the model's own fields: log entry 2). -/
def Obligations.StepRunsTheDecodedCommand : Prop :=
  ∀ (s : State) (c : PortWrite) (rest : List PortWrite) (i : Instr),
    s.commands = c :: rest → decode c.word = .ok i →
      step s = exec i { s with nowMs := c.nowMs, commands := rest }

/-- R126: between commands HFC does nothing and its state persists (the model's reading: log entry 3). -/
def Obligations.WithoutACommandTheStatePersists : Prop :=
  ∀ s : State, s.commands = [] → step s = .next s

/-- R67, R112: which words are ILLEGAL; that every other word is exactly one row's command; what an ILLEGAL word does,
whatever the state and the time. -/
def Obligations.IllegalWordsOnlyReportIllegal : Prop :=
  (∀ w : Word, IllegalWord w ↔ ∃ e, decode w = .error e) ∧
  (∀ w : Word, IllegalWord w → ∀ r ∈ opcodeTable, r.matches w = false) ∧
  (∀ w : Word, ¬ IllegalWord w →
    ∃ r ∈ opcodeTable, r.matches w = true ∧ ∀ r' ∈ opcodeTable, r'.matches w = true → r' = r) ∧
  (∀ (s : State) (w t : Word), IllegalWord w →
    step (s.offer w t) = .next { s with nowMs := t, result := 0, cmdResult := .illegal })

/-- R66: the decoder and the opcode map agree, row by row, and at most one row matches a word. -/
def Obligations.DecoderFollowsTheOpcodeMap : Prop :=
  (∀ r ∈ opcodeTable, ∀ w : Word,
    w &&& r.mask = r.matchBits ↔ ∃ i, decode w = .ok i ∧ i.mnemonic = r.mnemonic) ∧
  (∀ r ∈ opcodeTable, ∀ r' ∈ opcodeTable, ∀ w : Word,
    w &&& r.mask = r.matchBits → w &&& r'.mask = r'.matchBits → r = r')

/-- R65: the opcode and every operand are the fields of the word they are taken from, unsigned and unscaled. -/
def Obligations.OperandsAreTheirFields : Prop :=
  ∀ (w : Word) (i : Instr), decode w = .ok i →
    (∃ r ∈ opcodeTable, r.mnemonic = i.mnemonic ∧ r.op.toNat = w.toNat % 2 ^ 4) ∧
    match i with
    | .rxPush d8 => d8.toNat = w.toNat / 2 ^ 8 % 2 ^ 8
    | .crc8Update d8 => d8.toNat = w.toNat / 2 ^ 8 % 2 ^ 8
    | .rxRead idx18 => idx18.toNat = w.toNat / 2 ^ 14
    | .txfRead idx18 => idx18.toNat = w.toNat / 2 ^ 14
    | .txpWrite idx16 d8 => idx16.toNat = w.toNat / 2 ^ 16 ∧ d8.toNat = w.toNat / 2 ^ 8 % 2 ^ 8
    | .txSetLen len16 => len16.toNat = w.toNat / 2 ^ 16
    | .txEncode tid8 type3 val5 =>
      tid8.toNat = w.toNat / 2 ^ 8 % 2 ^ 8 ∧ type3.toNat = w.toNat / 2 ^ 16 % 2 ^ 3 ∧
      val5.toNat = w.toNat / 2 ^ 19 % 2 ^ 5 ∧ (hb1 type3 val5).toNat = w.toNat / 2 ^ 16 % 2 ^ 8 ∧
      (hb1 type3 val5).toNat = val5.toNat * 2 ^ 3 + type3.toNat
    | .setTimeout imm24 => imm24.toNat = w.toNat / 2 ^ 8
    | .nop | .rxPoll | .rxRelease | .crc8Clear | .softReset => True

/-- Decoding the word of a command gives the command back, at every value of every operand. -/
def Obligations.DecodeOfEncodeIsTheCommand : Prop :=
  ∀ i : Instr, decode (encode i) = .ok i

/-- A command has one word: no bit of a legal word is lost by decoding it. -/
def Obligations.LegalWordIsTheEncodingOfItsCommand : Prop :=
  ∀ (w : Word) (i : Instr), decode w = .ok i → encode i = w

/-- Words of 95_test_vectors.md, one for each command, decode to the command they stand for. -/
def Obligations.SpecWordsDecodeToTheirCommands : Prop :=
  decode 0x00000000 = .ok .nop ∧ decode 0x0000D201 = .ok (.rxPush 0xD2) ∧
  decode 0x00000002 = .ok .rxPoll ∧ decode 0x00000003 = .ok .rxRelease ∧
  decode 0x0002C004 = .ok (.rxRead 11) ∧ decode 0x00027D05 = .ok (.txpWrite 2 0x7D) ∧
  decode 0x01010006 = .ok (.txSetLen 257) ∧ decode 0x00F9FF07 = .ok (.txEncode 0xFF 1 31) ∧
  decode 0x00028008 = .ok (.txfRead 10) ∧ decode 0x00000009 = .ok .crc8Clear ∧
  decode 0x0000390A = .ok (.crc8Update 0x39) ∧ decode 0x0000FA0B = .ok (.setTimeout 250) ∧
  decode 0x0000000C = .ok .softReset

/-- R69: a statement assembles exactly when it is a command with operands that fit, and then the word has its operands. -/
def Obligations.AssemblerRefusesOperandsThatDoNotFit : Prop :=
  (∀ a : Asm, (commandOf a).isSome = a.wellFormed) ∧
  (∀ (a : Asm) (i : Instr), commandOf a = some i → i.mnemonic = a.mnemonic ∧
    a.operands =
      match i with
      | .rxPush d8 | .crc8Update d8 => [d8.toNat]
      | .rxRead idx18 | .txfRead idx18 => [idx18.toNat]
      | .txpWrite idx16 d8 => [idx16.toNat, d8.toNat]
      | .txSetLen len16 => [len16.toNat]
      | .txEncode tid8 type3 val5 => [tid8.toNat, type3.toNat, val5.toNat]
      | .setTimeout imm24 => [imm24.toNat]
      | .nop | .rxPoll | .rxRelease | .crc8Clear | .softReset => [])

/-- R70: the three pseudo-instructions and their expansions. -/
def Obligations.PseudoInstructionsExpand : Prop :=
  ∀ bs : List Byte, bs ≠ [] →
    commandsOf ⟨"RX_PUSHS", bs.map BitVec.toNat⟩ = some (bs.map .rxPush) ∧
    commandsOf ⟨"CRC8_BYTES", bs.map BitVec.toNat⟩ = some (.crc8Clear :: bs.map .crc8Update) ∧
    (bs.length ≤ 65535 →
      ∃ is, commandsOf ⟨"TXP_LOAD", bs.map BitVec.toNat⟩ = some is ∧ is.length = bs.length + 1 ∧
        (∀ i b, bs[i]? = some b → is[i]? = some (Instr.txpWrite (BitVec.ofNat 16 i) b)) ∧
        is[bs.length]? = some (Instr.txSetLen (BitVec.ofNat 16 bs.length)))

/-! ## CRC8 -/

/-- R77 to R79: the table of R78 is the CRC of each single byte, and the byte-at-a-time form by the table is `CRC8`. -/
def Obligations.TableFormComputesTheCrc : Prop :=
  crc8Table.length = 256 ∧ (∀ i : Byte, crc8Lookup i = crc8 [i]) ∧
  (∀ l : List Byte, crc8 l = l.foldl (fun c b => crc8Lookup (c ^^^ b)) 0x00)

/-- R77: `CRC8(L)` is the remainder of the message, times `x^8`, by the generator `x^8 + x^2 + x + 1` over the two-element
field, bytes in list order and most significant bit first. -/
def Obligations.CrcIsTheRemainderByTheGenerator : Prop :=
  ∀ l : List Byte, ∃ q : Polynomial (ZMod 2),
    ((l.flatMap fun b => [b.getLsbD 7, b.getLsbD 6, b.getLsbD 5, b.getLsbD 4,
        b.getLsbD 3, b.getLsbD 2, b.getLsbD 1, b.getLsbD 0]).foldl
      (fun p bit => p * Polynomial.X + if bit then 1 else 0) 0) * Polynomial.X ^ 8 =
    q * (Polynomial.X ^ 8 + Polynomial.X ^ 2 + Polynomial.X + 1) +
      (Finset.range 8).sum fun k => if (crc8 l).getLsbD k then Polynomial.X ^ k else 0

/-- R80: the five consequences. -/
def Obligations.CrcConsequences : Prop :=
  (crc8 [] = 0x00 ∧ ∀ hb1 tid : Byte, (buildHeader hb1 tid [])[5]? = some 0x00) ∧
  (∀ b : Byte, crc8 [b] = crc8Lookup b) ∧ crc8 [0x00] = 0x00 ∧
  (∀ l : List Byte, crc8 (0x00 :: l) = crc8 l) ∧
  (∀ a b : List Byte, a.length = b.length → crc8 (List.zipWith (· ^^^ ·) a b) = crc8 a ^^^ crc8 b) ∧
  (∀ (pre post : List Byte) (b b' : Byte), b ≠ b' → crc8 (pre ++ b :: post) ≠ crc8 (pre ++ b' :: post)) ∧
  crc8 [0x31, 0x32, 0x33, 0x34, 0x35, 0x36, 0x37, 0x38, 0x39] = 0xF4

/-- R82: `CRC8_CLEAR`, whole. -/
def Obligations.Crc8ClearClearsTheAccumulator : Prop :=
  (∀ s : State, exec .crc8Clear s = .next { s with crcAcc := 0, result := 0, cmdResult := .ok }) ∧
  IllegalWithBits 0x9 0xFFFFFFF0 ∧ decode 0x00000009 = .ok .crc8Clear

/-- R83: `CRC8_UPDATE`, whole: one byte by the table; and after `CRC8_CLEAR` the bytes of any list give its CRC. -/
def Obligations.Crc8UpdateTakesTheNextByte : Prop :=
  (∀ (s : State) (d8 : Byte),
    exec (.crc8Update d8) s =
      .next { s with
        crcAcc := crc8Lookup (s.crcAcc ^^^ d8)
        result := (crc8Lookup (s.crcAcc ^^^ d8)).setWidth 32
        cmdResult := .ok }) ∧
  (∀ (s : State) (time : Word) (l : List Byte) (rest : List PortWrite),
    s.commands = writesFor ((.crc8Clear, time) :: l.map fun b => (.crc8Update b, time)) ++ rest →
      runFor (l.length + 1) s =
        .next { s with
          crcAcc := crc8 l
          result := (crc8 l).setWidth 32
          cmdResult := .ok
          nowMs := time
          commands := rest }) ∧
  IllegalWithBits 0xA 0xFFFF00F0 ∧ decode 0x0000550A = .ok (.crc8Update 0x55) ∧
  crc8Lookup (0x00 ^^^ 0x00) = 0x00 ∧ crc8Lookup (0x00 ^^^ 0x55) = 0xAC

/-! ## The wire frame and the encoder -/

/-- R84: escaping, byte by byte, keeps the order; its output holds no delimiter and can be undone. -/
def Obligations.EscapingActsByteByByte : Prop :=
  escapeAll [] = [] ∧
  (∀ (b : Byte) (l : List Byte), escapeAll (b :: l) =
    (if b = 0x7E then [0x7D, 0x5E] else if b = 0x7D then [0x7D, 0x5D] else [b]) ++ escapeAll l) ∧
  (∀ l m : List Byte, escapeAll (l ++ m) = escapeAll l ++ escapeAll m) ∧
  (∀ l : List Byte, 0x7E ∉ escapeAll l) ∧
  (∀ l m : List Byte, escapeAll l = escapeAll m → l = m)

/-- R85: the header and the frame of a packet, byte by byte; R52: the length field is little-endian. -/
def Obligations.FrameHasTheHeaderLayout : Prop :=
  (∀ (hb1 tid : Byte) (p : List Byte), p.length ≤ 65535 →
    ∃ h : List Byte,
      buildFrame hb1 tid p = [0x7E] ++ escapeAll (h ++ p) ++ [0x7E] ∧ h.length = 8 ∧
      h[0]? = some 0x55 ∧ h[1]? = some hb1 ∧ h[2]? = some tid ∧
      (∃ lo hi : Byte, h[3]? = some lo ∧ h[4]? = some hi ∧ p.length = lo.toNat + 256 * hi.toNat) ∧
      h[5]? = some (crc8 p) ∧ h[6]? = some 0x00 ∧ h[7]? = some (crc8 (h.take 7))) ∧
  (∀ b : List Byte, declaredLength b = (b.getD 3 0).toNat ||| (b.getD 4 0).toNat <<< 8)

/-- R76: a frame is `2 + 8 + N + k` bytes, `k` the bytes to escape; its bounds; the shortest frame. -/
def Obligations.FrameLengthCountsTheEscapes : Prop :=
  (∀ (hb1 tid : Byte) (p : List Byte),
    (buildFrame hb1 tid p).length =
      2 + 8 + p.length + (buildHeader hb1 tid p ++ p).countP (fun b => b == 0x7E || b == 0x7D) ∧
    10 + p.length ≤ (buildFrame hb1 tid p).length ∧
    (buildFrame hb1 tid p).length ≤ 2 * (8 + p.length) + 2) ∧
  (∃ tid : Byte, (buildFrame (hb1 typeAck 0) tid []).length = 10)

/-- R86: with `tx_len` in its range the frame fits `TXF`, and `TX_ENCODE` completes. -/
def Obligations.EncodedFrameAlwaysFits : Prop :=
  ∀ (s : State) (tid8 : BitVec 8) (type3 : BitVec 3) (val5 : BitVec 5),
    s.txLen.toNat ≤ s.cfg.maxTxPayload.val →
      10 + s.txLen.toNat ≤ (frameToSend tid8 type3 val5 s).length ∧
      (frameToSend tid8 type3 val5 s).length ≤ 2 * (8 + s.txLen.toNat) + 2 ∧
      (frameToSend tid8 type3 val5 s).length ≤ s.cfg.txfSize ∧
      ∃ t, exec (.txEncode tid8 type3 val5) s = .next t

/-- R88: `TXP_WRITE`, whole; a byte at or past `tx_len` is in no frame until `tx_len` covers it. -/
def Obligations.TxpWriteStoresThePayloadByte : Prop :=
  (∀ (s : State) (idx16 : BitVec 16) (d8 : Byte), idx16.toNat < s.cfg.maxTxPayload.val →
    exec (.txpWrite idx16 d8) s =
      .next { s with txp := Memory.write s.txp idx16.toNat d8, result := 0, cmdResult := .ok }) ∧
  (∀ (s t : State) (idx16 : BitVec 16) (d8 : Byte), idx16.toNat < s.cfg.maxTxPayload.val →
    exec (.txpWrite idx16 d8) s = .next t →
      byteAt t .txp idx16.toNat = d8 ∧ ∀ j, j ≠ idx16.toNat → byteAt t .txp j = byteAt s .txp j) ∧
  (∀ (s : State) (idx16 : BitVec 16) (d8 : Byte), s.cfg.maxTxPayload.val ≤ idx16.toNat →
    exec (.txpWrite idx16 d8) s = .next { s with result := 0, cmdResult := .range }) ∧
  (∀ (s t : State) (idx16 : BitVec 16) (d8 : Byte), exec (.txpWrite idx16 d8) s = .next t →
    s.txLen.toNat ≤ idx16.toNat →
      ∀ (tid8 : BitVec 8) (type3 : BitVec 3) (val5 : BitVec 5),
        frameToSend tid8 type3 val5 t = frameToSend tid8 type3 val5 s) ∧
  IllegalWithBits 0x5 0x000000F0 ∧ decode 0x00037E05 = .ok (.txpWrite 3 0x7E)

/-- R89: `TX_SETLEN`, whole. -/
def Obligations.TxSetLenSetsTheLength : Prop :=
  (∀ (s : State) (len16 : BitVec 16), len16.toNat ≤ s.cfg.maxTxPayload.val →
    exec (.txSetLen len16) s = .next { s with txLen := len16, result := 0, cmdResult := .ok }) ∧
  (∀ (s : State) (len16 : BitVec 16), s.cfg.maxTxPayload.val < len16.toNat →
    exec (.txSetLen len16) s = .next { s with result := 0, cmdResult := .range }) ∧
  IllegalWithBits 0x6 0x0000FFF0 ∧ decode 0x00040006 = .ok (.txSetLen 4)

/-- R90: `TX_ENCODE`, whole, whatever the bytes of `TXP` (an unwritten one is the free value of log entry 4). -/
def Obligations.TxEncodeBuildsTheFrame : Prop :=
  (∀ (s : State) (tid8 : BitVec 8) (type3 : BitVec 3) (val5 : BitVec 5),
    s.txLen.toNat ≤ s.cfg.maxTxPayload.val →
      ∃ t f,
        f = buildFrame (hb1 type3 val5) tid8 (bytesAt s .txp s.txLen.toNat) ∧
        exec (.txEncode tid8 type3 val5) s = .next t ∧
        bytesAt t .txf f.length = f ∧
        (∀ j, f.length ≤ j → byteAt t .txf j = byteAt s .txf j) ∧
        t.txFrameLen.toNat = f.length ∧ t.result.toNat = f.length ∧
        t = { s with
              txf := t.txf
              txFrameLen := t.txFrameLen
              txValid := true
              result := t.result
              cmdResult := .ok }) ∧
  IllegalWithBits 0x7 0xFF0000F0 ∧ decode 0x00000507 = .ok (.txEncode 5 0 0) ∧
  buildFrame (hb1 0 0) 5 [] = [0x7E, 0x55, 0x00, 0x05, 0x00, 0x00, 0x00, 0x00, 0xD1, 0x7E] ∧
  (∀ (hb1 tid : Byte), (buildHeader hb1 tid []).getD 5 1 = 0x00 ∧
    ((∀ b ∈ buildHeader hb1 tid [], b ≠ 0x7E ∧ b ≠ 0x7D) → (buildFrame hb1 tid []).length = 10)) ∧
  (buildHeader (hb1 0 0) 0xF6 []).getD 7 0 = 0x7E ∧
  buildFrame (hb1 0 0) 0xF6 [] =
    [0x7E, 0x55, 0x00, 0xF6, 0x00, 0x00, 0x00, 0x00, 0x7D, 0x5E, 0x7E]

/-- R91: `TXF_READ`, whole. -/
def Obligations.TxfReadReturnsTheFrameByte : Prop :=
  (∀ (s : State) (idx18 : BitVec 18), idx18.toNat < s.txFrameLen.toNat → s.txFrameLen.toNat ≤ s.cfg.txfSize →
    exec (.txfRead idx18) s =
      .next { s with result := (byteAt s .txf idx18.toNat).setWidth 32, cmdResult := .ok }) ∧
  (∀ (s : State) (idx18 : BitVec 18), s.txFrameLen.toNat ≤ idx18.toNat →
    exec (.txfRead idx18) s = .next { s with result := 0, cmdResult := .range }) ∧
  (∀ (s t : State) (tid8 : BitVec 8) (type3 : BitVec 3) (val5 : BitVec 5),
    s.txLen.toNat ≤ s.cfg.maxTxPayload.val → exec (.txEncode tid8 type3 val5) s = .next t →
      exec (.txfRead 0) t = .next { t with result := 0x7E, cmdResult := .ok } ∧
      exec (.txfRead (t.txFrameLen - 1)) t = .next { t with result := 0x7E, cmdResult := .ok }) ∧
  IllegalWithBits 0x8 0x00003FF0 ∧ decode 0x00020008 = .ok (.txfRead 8)

/-- R130, U2, U3 and log entry 4: after `SOFT_RESET` a payload byte that is not written again is a free value, drawn anew, and
the frame of a `TX_ENCODE` carries it. -/
def Obligations.UnwrittenPayloadBytesAreFree : Prop :=
  ∀ (s : State) (n : BitVec 16), n.toNat ≤ s.cfg.maxTxPayload.val →
    ∃ t u, exec .softReset s = .next t ∧ exec (.txSetLen n) t = .next u ∧ u.draws ≠ s.draws ∧
      ∀ (tid8 : BitVec 8) (type3 : BitVec 3) (val5 : BitVec 5),
        frameToSend tid8 type3 val5 u =
          buildFrame (hb1 type3 val5) tid8 ((List.range n.toNat).map (Config.unwritten .txp u.draws))

/-! ## The decoder -/

/-- R104: `RX_POLL`, whole; the staleness it tests is R93's. -/
def Obligations.RxPollAppliesTheTimeout : Prop :=
  (∀ s : State, Stale s →
    exec .rxPoll s =
      .next { s with
        rxCount := 0
        rxEsc := false
        rxOvf := false
        rxDiscard := true
        result := 1
        cmdResult := .ok }) ∧
  (∀ s : State, ¬ Stale s → exec .rxPoll s = .next { s with result := 0, cmdResult := .ok }) ∧
  (∀ s : State, Partial s → s.rxTimeout = 0 → (Stale s ↔ s.nowMs ≠ s.rxLastMs)) ∧
  IllegalWithBits 0x2 0xFFFFFFF0 ∧ decode 0x00000002 = .ok .rxPoll

/-- R93: whoever sets `rx_discard` is `RX_PUSH` or `RX_POLL`, on a stale partial frame, never with a frame held; and that
command changes neither `rx_err` nor `rx_err_code`: a discard is no frame error. -/
def Obligations.OnlyAStalePartialFrameIsDiscarded : Prop :=
  ∀ (s t : State) (i : Instr), exec i s = .next t → s.rxDiscard = false → t.rxDiscard = true →
    Stale s ∧ s.rxReady = false ∧ t.rxErr = s.rxErr ∧ t.rxErrCode = s.rxErrCode ∧
      (i = .rxPoll ∨ ∃ d8, i = .rxPush d8)

/-- R103: `RX_PUSH` while a frame is held is BUSY: the byte is not taken and nothing else changes. -/
def Obligations.RxPushIsBusyWhileAFrameIsHeld : Prop :=
  ∀ (s : State) (d8 : Byte), s.rxReady = true →
    exec (.rxPush d8) s = .next { s with result := 0, cmdResult := .busy }

/-- R94, R95 and R103: `RX_PUSH` of a data byte on a partial frame that is not stale, or on none. -/
def Obligations.RxPushStoresADataByte : Prop :=
  ∀ (s : State) (d8 : Byte), s.rxReady = false → ¬ Stale s → d8 ≠ 0x7E → (s.rxEsc = true ∨ d8 ≠ 0x7D) →
    (s.rxCount.toNat < s.cfg.rxBufSize →
      exec (.rxPush d8) s =
        .next { s with
          rxb := Memory.write s.rxb s.rxCount.toNat (if s.rxEsc then d8 ^^^ 0x20 else d8)
          rxCount := s.rxCount + 1
          rxEsc := false
          rxLastMs := s.nowMs
          result := 0
          cmdResult := .ok }) ∧
    (s.cfg.rxBufSize ≤ s.rxCount.toNat →
      exec (.rxPush d8) s =
        .next { s with
          rxOvf := true
          rxEsc := false
          rxLastMs := s.nowMs
          result := 0
          cmdResult := .ok })

/-- R95 and R103: `RX_PUSH` of an ESC that is not itself escaped. -/
def Obligations.RxPushOfEscWaitsForItsPartner : Prop :=
  ∀ s : State, s.rxReady = false → ¬ Stale s → s.rxEsc = false →
    exec (.rxPush 0x7D) s =
      .next { s with rxEsc := true, rxLastMs := s.nowMs, result := 0, cmdResult := .ok }

/-- R96, R97, R115: `RX_PUSH` of the delimiter, case by case: no event, an accepted frame, or a frame error with the reason of
the first check that fails. -/
def Obligations.DelimiterClosesTheFrame : Prop :=
  ∀ s : State, s.rxReady = false → ¬ Stale s → s.rxCount.toNat ≤ s.cfg.rxBufSize →
    let fails : FrameReason → State := fun r =>
      { s with
        rxCount := 0
        rxEsc := false
        rxOvf := false
        rxErr := true
        rxErrCode := some r
        rxLastMs := s.nowMs
        result := 0xFFFFFFFF
        cmdResult := .ok }
    (s.rxEsc = true → exec (.rxPush 0x7E) s = .next (fails .badPacket)) ∧
    (s.rxEsc = false → s.rxOvf = true → exec (.rxPush 0x7E) s = .next (fails .invalidLength)) ∧
    (s.rxEsc = false → s.rxOvf = false → s.rxCount = 0 →
      exec (.rxPush 0x7E) s = .next { s with rxLastMs := s.nowMs, result := 0, cmdResult := .ok }) ∧
    (s.rxEsc = false → s.rxOvf = false → s.rxCount ≠ 0 → ¬ LengthGood (buffered s) →
      exec (.rxPush 0x7E) s = .next (fails .invalidLength)) ∧
    (s.rxEsc = false → s.rxOvf = false → LengthGood (buffered s) → ¬ CrcGood (buffered s) →
      exec (.rxPush 0x7E) s = .next (fails .badCrc)) ∧
    (s.rxEsc = false → s.rxOvf = false → LengthGood (buffered s) → CrcGood (buffered s) →
      ¬ PacketGood (buffered s) → exec (.rxPush 0x7E) s = .next (fails .badPacket)) ∧
    (s.rxEsc = false → s.rxOvf = false → LengthGood (buffered s) → CrcGood (buffered s) →
      PacketGood (buffered s) →
      exec (.rxPush 0x7E) s =
        .next { s with rxReady := true, rxLastMs := s.nowMs, result := 1, cmdResult := .ok })

/-- R118 item 2, R103: one `RX_PUSH` on a stale partial frame discards it and then takes its byte as an IDLE decoder does. -/
def Obligations.StalePushStartsAfresh : Prop :=
  ∀ (s : State) (d8 : Byte), Stale s →
    exec (.rxPush d8) s =
      exec (.rxPush d8) { s with rxCount := 0, rxEsc := false, rxOvf := false, rxDiscard := true } ∧
    ¬ Stale { s with rxCount := 0, rxEsc := false, rxOvf := false, rxDiscard := true } ∧
    exec (.rxPush 0x7E) s =
      .next { s with
        rxCount := 0
        rxEsc := false
        rxOvf := false
        rxDiscard := true
        rxLastMs := s.nowMs
        result := 0
        cmdResult := .ok }

/-- R105: `RX_RELEASE`, whole. -/
def Obligations.RxReleaseFreesTheFrame : Prop :=
  (∀ s : State, s.rxReady = true →
    exec .rxRelease s =
      .next { s with
        rxReady := false
        rxCount := 0
        rxErr := false
        rxErrCode := none
        rxDiscard := false
        result := 0
        cmdResult := .ok }) ∧
  (∀ s : State, s.rxReady = false →
    exec .rxRelease s =
      .next { s with rxErr := false, rxErrCode := none, rxDiscard := false, result := 0, cmdResult := .ok }) ∧
  IllegalWithBits 0x3 0xFFFFFFF0 ∧ decode 0x00000003 = .ok .rxRelease

/-- R106: `RX_READ`, whole, in a state whose count is in its range (R22). -/
def Obligations.RxReadReturnsTheBufferedByte : Prop :=
  (∀ (s : State) (idx18 : BitVec 18), idx18.toNat < s.rxCount.toNat → s.rxCount.toNat ≤ s.cfg.rxBufSize →
    exec (.rxRead idx18) s =
      .next { s with result := (byteAt s .rxb idx18.toNat).setWidth 32, cmdResult := .ok }) ∧
  (∀ (s : State) (idx18 : BitVec 18), s.rxCount.toNat ≤ idx18.toNat →
    exec (.rxRead idx18) s = .next { s with result := 0, cmdResult := .range }) ∧
  IllegalWithBits 0x4 0x00003FF0 ∧ decode 0x00024004 = .ok (.rxRead 9)

/-- R134: after a release of a held frame, every `RX_READ` is RANGE and `RX_INFO` and `RX_CRC` read 0. -/
def Obligations.ReleasedFrameIsGone : Prop :=
  ∀ (s t : State), s.rxReady = true → exec .rxRelease s = .next t →
    t.rxCount = 0 ∧ readPort t 0x0C = 0 ∧ readPort t 0x10 = 0 ∧
    ∀ idx18, exec (.rxRead idx18) t = .next { t with result := 0, cmdResult := .range }

/-- R98: to an IDLE decoder any run of delimiters is no event, one by one. -/
def Obligations.DelimitersAtIdleAreNoEvent : Prop :=
  ∀ (s : State) (times : List Word) (last : Word) (rest : List PortWrite), Idle s →
    s.commands = pushesFor ((times ++ [last]).map fun t => (0x7E, t)) ++ rest →
      runFor (times.length + 1) s =
        .next { s with
          rxLastMs := last
          nowMs := last
          result := 0
          cmdResult := .ok
          commands := rest }

/-- R100: from IDLE, pushing the escaped bytes of `L` in time leaves `L` buffered and no escape pending. -/
def Obligations.EscapingRoundTripsThroughTheDecoder : Prop :=
  ∀ (s : State) (l : List Byte) (xs : List (Byte × Word)) (rest : List PortWrite),
    Idle s → l.length ≤ s.cfg.rxBufSize → xs.map Prod.fst = escapeAll l → inTime s.rxTimeout.toNat xs →
    s.commands = pushesFor xs ++ rest →
      ∃ t, runFor xs.length s = .next t ∧ t.commands = rest ∧ t.rxCount.toNat = l.length ∧
        bytesAt t .rxb l.length = l ∧ t.rxEsc = false ∧ t.rxOvf = false ∧ t.rxReady = false ∧
        t.rxErr = s.rxErr ∧ t.rxErrCode = s.rxErrCode ∧ t.rxDiscard = s.rxDiscard

/-- R101: the decoder and the encoder agree. From IDLE, pushing a frame of `BuildFrame` in time gives result 0 for every byte
but the last; at the last it is accepted, or fails as R101 says. -/
def Obligations.DecoderAcceptsWhatTheEncoderBuilds : Prop :=
  ∀ (s : State) (hb1 tid : Byte) (p : List Byte) (xs : List (Byte × Word)) (rest : List PortWrite),
    Idle s → p.length ≤ 65535 → xs.map Prod.fst = buildFrame hb1 tid p → inTime s.rxTimeout.toNat xs →
    s.commands = pushesFor xs ++ rest →
      (∀ k, 0 < k → k < xs.length →
        ∃ t, runFor k s = .next t ∧ t.result = 0 ∧ t.cmdResult = .ok ∧ t.rxReady = false) ∧
      ∃ t, runFor xs.length s = .next t ∧ t.commands = rest ∧ t.cmdResult = .ok ∧
        (hb1.toNat % 8 ≤ 1 → 8 + p.length ≤ s.cfg.rxBufSize →
          t.result = 1 ∧ t.rxReady = true ∧ t.rxCount.toNat = 8 + p.length ∧
          bytesAt t .rxb (8 + p.length) = buildHeader hb1 tid p ++ p) ∧
        (2 ≤ hb1.toNat % 8 → 8 + p.length ≤ s.cfg.rxBufSize →
          t.result = 0xFFFFFFFF ∧ t.rxReady = false ∧ t.rxErr = true ∧ t.rxErrCode = some .badPacket) ∧
        (s.cfg.rxBufSize < 8 + p.length →
          t.result = 0xFFFFFFFF ∧ t.rxReady = false ∧ t.rxErr = true ∧ t.rxErrCode = some .invalidLength)

/-- R99: there is no hunt for an opening delimiter: a frame without it is accepted at its closing delimiter. -/
def Obligations.OpeningDelimiterIsNotNeeded : Prop :=
  ∀ (s : State) (hb1 tid : Byte) (p : List Byte) (xs : List (Byte × Word)) (rest : List PortWrite),
    Idle s → hb1.toNat % 8 ≤ 1 → p.length ≤ 65535 → 8 + p.length ≤ s.cfg.rxBufSize →
    0x7E :: xs.map Prod.fst = buildFrame hb1 tid p → inTime s.rxTimeout.toNat xs →
    s.commands = pushesFor xs ++ rest →
      ∃ t, runFor xs.length s = .next t ∧ t.result = 1 ∧ t.rxReady = true ∧
        t.rxCount.toNat = 8 + p.length ∧ bytesAt t .rxb (8 + p.length) = buildHeader hb1 tid p ++ p

/-- R102: any one byte of a good frame changed, with its length kept, is found at the delimiter: by check 5 in bytes 3 and 4,
by a CRC check elsewhere. -/
def Obligations.OneChangedByteIsFound : Prop :=
  ∀ (s : State) (b : List Byte) (i : Nat) (v : Byte),
    LengthGood b → CrcGood b → PacketGood b → i < b.length → b[i]? ≠ some v →
    s.rxReady = false → ¬ Stale s → s.rxEsc = false → s.rxOvf = false → s.rxCount.toNat ≤ s.cfg.rxBufSize →
    buffered s = b.set i v →
      ∃ t, exec (.rxPush 0x7E) s = .next t ∧ t.result = 0xFFFFFFFF ∧ t.rxReady = false ∧ t.rxErr = true ∧
        t.rxErrCode = some (if i = 3 ∨ i = 4 then .invalidLength else .badCrc) ∧
        (i ∈ [0, 1, 2, 5, 6, 7] → crc8 ((b.set i v).take 7) ≠ (b.set i v).getD 7 0) ∧
        (8 ≤ i → crc8 ((b.set i v).drop 8) ≠ (b.set i v).getD 5 0)

/-! ## Control and reset -/

/-- R109: `NOP`, whole. -/
def Obligations.NopOnlyReportsOk : Prop :=
  (∀ s : State, exec .nop s = .next { s with result := 0, cmdResult := .ok }) ∧
  IllegalWithBits 0x0 0xFFFFFFF0 ∧ decode 0x00000000 = .ok .nop

/-- R110: `SET_TIMEOUT`, whole: the value is the next timeout check's. -/
def Obligations.SetTimeoutSetsTheTimeout : Prop :=
  (∀ (s : State) (imm24 : BitVec 24),
    exec (.setTimeout imm24) s = .next { s with rxTimeout := imm24, result := 0, cmdResult := .ok }) ∧
  (∀ (s t : State) (imm24 : BitVec 24) (now : Word), exec (.setTimeout imm24) s = .next t →
    (Stale { t with nowMs := now } ↔
      Partial s ∧ imm24.toNat < (now.toNat + 2 ^ 32 - s.rxLastMs.toNat) % 2 ^ 32)) ∧
  IllegalWithBits 0xB 0x000000F0 ∧ decode 0x0000FA0B = .ok (.setTimeout 250)

/-- R127, R111: reset, at power-on (in the configuration of log entry 1) and by `SOFT_RESET`: every element, the buffers' bytes
drawn as free values (log entry 4), and what every read-port offset then reads. -/
def Obligations.ResetGivesEveryElementItsValue : Prop :=
  AtReset State.reset ∧
  (∀ s : State, ∃ t, exec .softReset s = .next t ∧ AtReset t ∧
    t.cfg = s.cfg ∧ t.nowMs = s.nowMs ∧ t.commands = s.commands) ∧
  (∀ (s : State) (offset : BitVec 8), AtReset s →
    (readPort s offset).toNat =
      if offset = 0x20 then 100
      else if offset = 0x24 then s.cfg.rxBufSize
      else if offset = 0x28 then s.cfg.maxTxPayload.val
      else 0) ∧
  IllegalWithBits 0xC 0xFFFFFFF0 ∧ decode 0x0000000C = .ok .softReset

/-- R129: reset twice is reset once, but for the draw of the buffers (the field `draws` of log entry 4); and it does not depend
on `now_ms`. -/
def Obligations.ResetIsIdempotent : Prop :=
  (∀ s t u : State, exec .softReset s = .next t → exec .softReset t = .next u → u = { t with draws := u.draws }) ∧
  (∃ t, exec .softReset State.reset = .next t ∧ t = { State.reset with draws := t.draws }) ∧
  (∀ (s t : State) (now : Word), exec .softReset s = .next t →
    exec .softReset { s with nowMs := now } = .next { t with nowMs := now })

/-! ## The read port -/

/-- R38: `STATUS`, field by field. -/
def Obligations.StatusShowsTheFlags : Prop :=
  (∀ s : State,
    (readPort s 0x00).toNat =
      s.rxReady.toNat + 2 * s.rxErr.toNat + 4 * (reasonCode s.rxErrCode).toNat + 16 * s.rxEsc.toNat +
      32 * s.rxOvf.toNat + 64 * s.rxDiscard.toNat + 128 * s.txValid.toNat +
      256 * (cmdCode s.cmdResult).toNat) ∧
  (∀ (s : State) (k : Nat), 11 ≤ k → (readPort s 0x00).getLsbD k = false) ∧
  (∀ s t : State, exec .rxRelease s = .next t →
    (readPort t 0x00).toNat % 16 = 0 ∧ (readPort t 0x00).getLsbD 6 = false) ∧
  (readPort State.reset 0x00 = 0x00000000)

/-- R39, R53: `RX_INFO` and `RX_CRC` show the header of a held frame, the lower byte lower, and else 0. -/
def Obligations.HeaderViewsShowTheHeldFrame : Prop :=
  (∀ s : State, s.rxReady = true →
    (readPort s 0x0C).toNat = (byteAt s .rxb 1).toNat + 2 ^ 8 * (byteAt s .rxb 2).toNat +
      2 ^ 16 * (byteAt s .rxb 3).toNat + 2 ^ 24 * (byteAt s .rxb 4).toNat ∧
    (readPort s 0x10).toNat = (byteAt s .rxb 0).toNat + 2 ^ 8 * (byteAt s .rxb 5).toNat +
      2 ^ 16 * (byteAt s .rxb 6).toNat + 2 ^ 24 * (byteAt s .rxb 7).toNat) ∧
  (∀ s : State, s.rxReady = false → readPort s 0x0C = 0 ∧ readPort s 0x10 = 0) ∧
  (readPort State.reset 0x0C = 0 ∧ readPort State.reset 0x10 = 0)

/-- R40, R41, R50: the plain views, the two constants, and every other offset. -/
def Obligations.PlainViewsAndUnmappedOffsets : Prop :=
  ∀ s : State,
    readPort s 0x04 = s.result ∧ (readPort s 0x08).toNat = s.rxCount.toNat ∧
    (readPort s 0x14).toNat = s.txLen.toNat ∧ (readPort s 0x18).toNat = s.txFrameLen.toNat ∧
    (readPort s 0x1C).toNat = s.crcAcc.toNat ∧ (readPort s 0x20).toNat = s.rxTimeout.toNat ∧
    (readPort s 0x24).toNat = s.cfg.rxBufSize ∧ (readPort s 0x28).toNat = s.cfg.maxTxPayload.val ∧
    ∀ offset : BitVec 8, offset.toNat % 4 ≠ 0 ∨ 0x28 < offset.toNat → readPort s offset = 0

/-! ## What the commands leave alone -/

/-- R22, "written by": which commands may change an element, for every element and every command but `SOFT_RESET`. -/
def Obligations.ElementsChangeOnlyByTheirCommands : Prop :=
  ∀ (s t : State) (i : Instr), exec i s = .next t → i ≠ .softReset →
    let push := ∃ d8, i = .rxPush d8
    (t.rxCount ≠ s.rxCount → push ∨ i = .rxPoll ∨ i = .rxRelease) ∧
    (t.rxEsc ≠ s.rxEsc → push ∨ i = .rxPoll) ∧
    (t.rxOvf ≠ s.rxOvf → push ∨ i = .rxPoll) ∧
    (t.rxReady ≠ s.rxReady → push ∨ i = .rxRelease) ∧
    (t.rxErr ≠ s.rxErr → push ∨ i = .rxRelease) ∧
    (t.rxErrCode ≠ s.rxErrCode → push ∨ i = .rxRelease) ∧
    (t.rxDiscard ≠ s.rxDiscard → push ∨ i = .rxPoll ∨ i = .rxRelease) ∧
    (t.rxLastMs ≠ s.rxLastMs → push) ∧
    (t.rxTimeout ≠ s.rxTimeout → ∃ ms, i = .setTimeout ms) ∧
    (t.txLen ≠ s.txLen → ∃ len, i = .txSetLen len) ∧
    (t.txFrameLen ≠ s.txFrameLen → ∃ tid type val, i = .txEncode tid type val) ∧
    (t.txValid ≠ s.txValid → ∃ tid type val, i = .txEncode tid type val) ∧
    (t.crcAcc ≠ s.crcAcc → i = .crc8Clear ∨ ∃ d8, i = .crc8Update d8) ∧
    (∀ j, byteAt t .rxb j ≠ byteAt s .rxb j → push) ∧
    (∀ j, byteAt t .txp j ≠ byteAt s .txp j → ∃ idx d8, i = .txpWrite idx d8) ∧
    (∀ j, byteAt t .txf j ≠ byteAt s .txf j → ∃ tid type val, i = .txEncode tid type val)

/-- R21: no command changes the configuration; nor the model's own fields of log entry 2, the time it was given and what the
host has still to write. -/
def Obligations.NoCommandChangesTheConfiguration : Prop :=
  ∀ (s t : State) (i : Instr), exec i s = .next t →
    t.cfg = s.cfg ∧ t.nowMs = s.nowMs ∧ t.commands = s.commands

/-- R55: what the storing commands leave in memory: every byte of every buffer but those they store. -/
def Obligations.StoringCommandsKeepTheOtherBytes : Prop :=
  (∀ (s t : State) (d8 : Byte), exec (.rxPush d8) s = .next t →
    (∀ b j, ¬ (b = .rxb ∧ j = (beforeByte s).rxCount.toNat) → byteAt t b j = byteAt s b j) ∧
    (s.rxReady = true ∨ d8 = 0x7E ∨ ((beforeByte s).rxEsc = false ∧ d8 = 0x7D) ∨
        s.cfg.rxBufSize ≤ (beforeByte s).rxCount.toNat →
      ∀ b j, byteAt t b j = byteAt s b j)) ∧
  (∀ (s t : State) (idx16 : BitVec 16) (d8 : Byte), exec (.txpWrite idx16 d8) s = .next t →
    (∀ b j, ¬ (b = .txp ∧ j = idx16.toNat) → byteAt t b j = byteAt s b j) ∧
    (s.cfg.maxTxPayload.val ≤ idx16.toNat → ∀ b j, byteAt t b j = byteAt s b j)) ∧
  (∀ (s t : State) (tid8 : BitVec 8) (type3 : BitVec 3) (val5 : BitVec 5),
    exec (.txEncode tid8 type3 val5) s = .next t →
    ∀ b j, ¬ (b = .txf ∧ j < (frameToSend tid8 type3 val5 s).length) → byteAt t b j = byteAt s b j)

/-- R27, R28, R103: in every command but `RX_RELEASE` and `SOFT_RESET`, `result` is -1 exactly when a frame error occurs; a
frame error sets `rx_err` and writes its reason, and without one both stay. -/
def Obligations.MinusOneIsAFrameError : Prop :=
  ∀ (s t : State) (i : Instr), exec i s = .next t → i ≠ .rxRelease → i ≠ .softReset →
    (t.result = 0xFFFFFFFF →
      i = .rxPush 0x7E ∧ t.rxErr = true ∧ t.rxErrCode ≠ none ∧ t.rxReady = false ∧ t.rxCount = 0) ∧
    (t.result ≠ 0xFFFFFFFF → t.rxErr = s.rxErr ∧ t.rxErrCode = s.rxErrCode)

/-- R26: only a closing delimiter with result 1 makes a frame held, and only `RX_RELEASE` and `SOFT_RESET` free it. -/
def Obligations.HeldFrameStaysUntilReleased : Prop :=
  ∀ (s t : State) (i : Instr), exec i s = .next t →
    (s.rxReady = true → t.rxReady = false → i = .rxRelease ∨ i = .softReset) ∧
    (s.rxReady = false → t.rxReady = true → i = .rxPush 0x7E ∧ t.result = 1) ∧
    (s.rxReady = true → t.rxReady = true → t.rxCount = s.rxCount ∧ bytesAt t .rxb t.rxCount.toNat = buffered s)

/-- R114, R13: the cause of each command error, and that it changes nothing else. -/
def Obligations.CommandErrorsHaveTheirCauses : Prop :=
  ∀ (s t : State) (i : Instr), exec i s = .next t →
    t.cmdResult ≠ .illegal ∧
    (t.cmdResult = .busy ↔ s.rxReady = true ∧ ∃ d8, i = .rxPush d8) ∧
    (t.cmdResult = .range ↔
      (∃ idx, i = .rxRead idx ∧ s.rxCount.toNat ≤ idx.toNat) ∨
      (∃ idx, i = .txfRead idx ∧ s.txFrameLen.toNat ≤ idx.toNat) ∨
      (∃ idx d8, i = .txpWrite idx d8 ∧ s.cfg.maxTxPayload.val ≤ idx.toNat) ∨
      (∃ len, i = .txSetLen len ∧ s.cfg.maxTxPayload.val < len.toNat)) ∧
    (t.cmdResult ≠ .ok → t = { s with result := 0, cmdResult := t.cmdResult })

/-- R20: only `RX_PUSH` and `RX_POLL` look at `now_ms`. -/
def Obligations.OnlyPushAndPollLookAtTheTime : Prop :=
  ∀ (s t : State) (i : Instr) (now : Word), exec i s = .next t → i ≠ .rxPoll → (∀ d8, i ≠ .rxPush d8) →
    exec i { s with nowMs := now } = .next { t with nowMs := now }

/-- R35: the accumulator is of no concern to the other commands: with another value in it they do the same. -/
def Obligations.AccumulatorIsIndependent : Prop :=
  ∀ (s t : State) (i : Instr) (c : Byte), exec i s = .next t →
    i ≠ .crc8Clear → (∀ d8, i ≠ .crc8Update d8) → i ≠ .softReset →
      t.crcAcc = s.crcAcc ∧ exec i { s with crcAcc := c } = .next { t with crcAcc := c }

/-! ## Whole-machine statements -/

/-- R139: a receive command neither reads nor changes the transmit side, and a transmit command neither reads nor changes the
receive side. Two states are compared at one time and one draw of the buffers (log entries 2 and 4). -/
def Obligations.ReceiveAndTransmitShareNoState : Prop :=
  (∀ (s s' t : State) (i : Instr), onReceivePath i = true → SameInstance s s' → SameReceive s s' →
    exec i s = .next t →
      SameTransmit t s ∧ ∃ t', exec i s' = .next t' ∧ SameReceive t t' ∧ SameTransmit t' s' ∧
        t'.result = t.result ∧ t'.cmdResult = t.cmdResult) ∧
  (∀ (s s' t : State) (i : Instr), onTransmitPath i = true → SameInstance s s' → SameTransmit s s' →
    exec i s = .next t →
      SameReceive t s ∧ ∃ t', exec i s' = .next t' ∧ SameTransmit t t' ∧ SameReceive t' s' ∧
        t'.result = t.result ∧ t'.cmdResult = t.cmdResult)

/-- R139: a receive and a transmit command may be issued in either order: only `result` and `cmd_result`, which are those of
the later one, can differ. -/
def Obligations.ReceiveAndTransmitCommandsInterleaveFreely : Prop :=
  ∀ (s : State) (i j : Instr), Inv s → onReceivePath i = true → onTransmitPath j = true →
    ∃ a b c d, exec i s = .next a ∧ exec j a = .next b ∧ exec j s = .next c ∧ exec i c = .next d ∧
      d = { b with result := d.result, cmdResult := d.cmdResult } ∧
      b.result = c.result ∧ b.cmdResult = c.cmdResult ∧ d.result = a.result ∧ d.cmdResult = a.cmdResult

/-- R44, R22: the invariant holds right after reset. -/
def Obligations.InvariantHoldsAtReset : Prop := Inv State.reset

/-- R44, R22: every step keeps the invariant. -/
def Obligations.EveryStepKeepsTheInvariant : Prop :=
  ∀ s t : State, Inv s → step s = .next t → Inv t

/-- R15, R107: no step of a reachable state stops; every list of writes a host makes, whatever the words and times, runs to its
end. -/
def Obligations.EveryProgramRunsToItsEnd : Prop :=
  (∀ s : State, Inv s → ∃ t, step s = .next t) ∧
  (∀ s : State, Inv s → ∃ t, runFor s.commands.length s = .next t ∧ t.commands = [] ∧ Inv t)

/-- R90, R91, R130: the frame of a payload the host has written whole is read out byte by byte, whatever `TXP` held before. -/
def Obligations.WrittenPayloadIsFramedAndReadOut : Prop :=
  ∀ (s : State) (p : List Byte) (time : Word) (rest : List PortWrite)
    (tid8 : BitVec 8) (type3 : BitVec 3) (val5 : BitVec 5),
    p.length ≤ s.cfg.maxTxPayload.val →
    s.commands = writesFor
      ((expandTxpLoad p ++ [Instr.txEncode tid8 type3 val5]).map fun i => (i, time)) ++ rest →
      ∃ t, runFor (p.length + 2) s = .next t ∧ t.commands = rest ∧
        bytesAt t .txp p.length = p ∧ t.txLen.toNat = p.length ∧
        ∀ (i : Nat) (b : Byte), (buildFrame (hb1 type3 val5) tid8 p)[i]? = some b →
          exec (.txfRead (BitVec.ofNat 18 i)) t = .next { t with result := b.setWidth 32, cmdResult := .ok }
end

