-- ==== Sys2Proof/Laws/Decode.lean ====
section
/-! SUPPORT. What the decoder can answer, said once. -/

namespace Sys2Proof

/-- If a word is accepted in a format, its must-be-zero bits are zero and the command is the one offered. -/
theorem accept_ok {f : Format} {w : Word} {i j : Instr} (h : accept f w i = .ok j) : w &&& f.mbz = 0#32 ∧ j = i := by
  simp only [accept] at h
  split at h
  · exact ⟨‹_›, by simpa using h.symm⟩
  · simp at h

theorem accept_of_zero {f : Format} {w : Word} {i : Instr} (h : w &&& f.mbz = 0#32) : accept f w i = .ok i := if_pos h

theorem accept_of_ne {f : Format} {w : Word} {i : Instr} (h : w &&& f.mbz ≠ 0#32) :
    accept f w i = .error (.mustBeZero f) := if_neg h

theorem fieldOp_toNat (w : Word) : (fieldOp w).toNat = w.toNat % 16 := by simp [fieldOp]

/-- The rows of the decoder: which command a word is, given its opcode, when its must-be-zero bits allow it. -/
theorem decode_ok {w : Word} {i : Instr} (h : decode w = .ok i) :
    (w.toNat % 16 = 0 ∧ w &&& Format.N.mbz = 0#32 ∧ i = .nop) ∨
    (w.toNat % 16 = 1 ∧ w &&& Format.B.mbz = 0#32 ∧ i = .rxPush (fieldD8 w)) ∨
    (w.toNat % 16 = 2 ∧ w &&& Format.N.mbz = 0#32 ∧ i = .rxPoll) ∨
    (w.toNat % 16 = 3 ∧ w &&& Format.N.mbz = 0#32 ∧ i = .rxRelease) ∨
    (w.toNat % 16 = 4 ∧ w &&& Format.I.mbz = 0#32 ∧ i = .rxRead (fieldIdx18 w)) ∨
    (w.toNat % 16 = 5 ∧ w &&& Format.W.mbz = 0#32 ∧ i = .txpWrite (fieldIdx16 w) (fieldD8 w)) ∨
    (w.toNat % 16 = 6 ∧ w &&& Format.L.mbz = 0#32 ∧ i = .txSetLen (fieldLen16 w)) ∨
    (w.toNat % 16 = 7 ∧ w &&& Format.H.mbz = 0#32 ∧ i = .txEncode (fieldTid8 w) (fieldType3 w) (fieldVal5 w)) ∨
    (w.toNat % 16 = 8 ∧ w &&& Format.I.mbz = 0#32 ∧ i = .txfRead (fieldIdx18 w)) ∨
    (w.toNat % 16 = 9 ∧ w &&& Format.N.mbz = 0#32 ∧ i = .crc8Clear) ∨
    (w.toNat % 16 = 10 ∧ w &&& Format.B.mbz = 0#32 ∧ i = .crc8Update (fieldD8 w)) ∨
    (w.toNat % 16 = 11 ∧ w &&& Format.T.mbz = 0#32 ∧ i = .setTimeout (fieldImm24 w)) ∨
    (w.toNat % 16 = 12 ∧ w &&& Format.N.mbz = 0#32 ∧ i = .softReset) := by
  simp only [decode, fieldOp_toNat] at h
  split at h <;> first | (cases h) | (obtain ⟨h1, h2⟩ := accept_ok h; simp_all)

end Sys2Proof
end

