-- ==== Sys2Proof/Laws/Frame.lean ====
section
/-! SUPPORT. Escaping one byte, and the shape of a header and a frame. -/

namespace Sys2Proof.Machine

theorem escapeByte_flag : escapeByte 0x7E = [0x7D, 0x5E] := by decide
theorem escapeByte_esc : escapeByte 0x7D = [0x7D, 0x5D] := by decide

theorem escapeByte_plain {b : Byte} (h : b ≠ 0x7E) (h' : b ≠ 0x7D) : escapeByte b = [b] := by
  exact if_neg (not_or.2 ⟨h, h'⟩)

@[simp] theorem escapeAll_nil : escapeAll [] = [] := rfl

@[simp] theorem escapeAll_cons (b : Byte) (l : List Byte) : escapeAll (b :: l) = escapeByte b ++ escapeAll l := by
  simp [escapeAll]

theorem escapeAll_append (l m : List Byte) : escapeAll (l ++ m) = escapeAll l ++ escapeAll m := by
  simp [escapeAll]

/-- The three shapes of an escaped byte. -/
theorem escapeByte_cases (b : Byte) :
    (b = 0x7E ∧ escapeByte b = [0x7D, 0x5E]) ∨ (b = 0x7D ∧ escapeByte b = [0x7D, 0x5D]) ∨
      (b ≠ 0x7E ∧ b ≠ 0x7D ∧ escapeByte b = [b]) := by
  by_cases h : b = 0x7E
  · exact .inl ⟨h, h ▸ escapeByte_flag⟩
  · by_cases h' : b = 0x7D
    · exact .inr (.inl ⟨h', h' ▸ escapeByte_esc⟩)
    · exact .inr (.inr ⟨h, h', escapeByte_plain h h'⟩)

@[simp] theorem length_buildHeader (hb1 tid : Byte) (p : List Byte) : (buildHeader hb1 tid p).length = 8 := rfl

/-- The header's bytes in order. -/
theorem buildHeader_eq (hb1 tid : Byte) (p : List Byte) :
    buildHeader hb1 tid p =
      [0x55, hb1, tid, BitVec.ofNat 8 p.length, BitVec.ofNat 8 (p.length >>> 8), crc8 p, 0x00,
        crc8 [0x55, hb1, tid, BitVec.ofNat 8 p.length, BitVec.ofNat 8 (p.length >>> 8), crc8 p, 0x00]] := rfl

/-- The two length bytes carry the length. -/
theorem lengthBytes {n : Nat} (h : n ≤ 65535) :
    n = (BitVec.ofNat 8 n).toNat + 256 * (BitVec.ofNat 8 (n >>> 8)).toNat := by
  simp only [BitVec.toNat_ofNat, Nat.shiftRight_eq_div_pow]
  omega

/-- A declared length is its low byte and 256 times its high byte. -/
theorem declaredLength_eq (b : List Byte) : declaredLength b = (b.getD 3 0).toNat + 256 * (b.getD 4 0).toNat := by
  simp only [declaredLength, BitVec.toNat_append]
  rw [Nat.shiftLeft_add_eq_or_of_lt (BitVec.isLt _) _ |>.symm, Nat.shiftLeft_eq]
  omega

theorem packetType_toNat (b : List Byte) : (packetType b).toNat = (b.getD 1 0).toNat % 8 := by
  simp [packetType]

end Sys2Proof.Machine
end

