-- ==== Sys2Proof/Laws/Memory.lean ====
section
/-! SUPPORT. The laws of buffer contents: what a write reads back as, that it leaves every other index alone, and that every
memory operation keeps the canonical form and the bound on its indexes. -/

namespace Sys2Proof.Machine

@[simp] theorem read?_nil (i : Nat) : Memory.read? [] i = none := rfl

theorem read?_write (m : Memory) (i j : Nat) (v : Byte) :
    Memory.read? (Memory.write m i v) j = if j = i then some v else Memory.read? m j := by
  induction m with
  | nil =>
    simp only [Memory.write, Memory.read?]
    split <;> split <;> simp_all
  | cons c rest ih =>
    obtain ⟨k, x⟩ := c
    simp only [Memory.write]
    split
    · simp only [Memory.read?]
      by_cases h : i = j
      · subst h; simp
      · simp [h, Ne.symm h]
    · split
      · subst i
        simp only [Memory.read?]
        by_cases h : k = j
        · subst h; simp
        · simp [h, Ne.symm h]
      · simp only [Memory.read?, ih]
        by_cases h : k = j
        · subst h
          have : ¬ k = i := by omega
          simp [this]
        · simp [h]

@[simp] theorem read?_write_same (m : Memory) (i : Nat) (v : Byte) :
    Memory.read? (Memory.write m i v) i = some v := by simp [read?_write]

theorem read?_write_other (m : Memory) {i j : Nat} (v : Byte) (h : j ≠ i) :
    Memory.read? (Memory.write m i v) j = Memory.read? m j := by simp [read?_write, h]

/-- What a run of writes reads back as. -/
theorem read?_writeAll (vs : List Byte) (m : Memory) (i j : Nat) :
    Memory.read? (Memory.writeAll m i vs) j =
      if i ≤ j ∧ j < i + vs.length then vs[j - i]? else Memory.read? m j := by
  induction vs generalizing m i with
  | nil => simp [Memory.writeAll]
  | cons v vs ih =>
    simp only [Memory.writeAll, ih, read?_write, List.length_cons]
    by_cases h : j = i
    · subst h
      simp
    · by_cases h1 : i + 1 ≤ j ∧ j < i + 1 + vs.length
      · have h2 : i ≤ j ∧ j < i + (vs.length + 1) := by omega
        have h3 : j - i = (j - (i + 1)) + 1 := by omega
        rw [if_pos h1, if_pos h2, h3, List.getElem?_cons_succ]
      · have h2 : ¬ (i ≤ j ∧ j < i + (vs.length + 1)) := by omega
        rw [if_neg h1, if_neg h2, if_neg h]

/-! ## The canonical form -/

@[simp] theorem wf_nil : Memory.wf [] = true := rfl

@[simp] theorem below_nil (n : Nat) : Memory.below n [] = true := rfl

/-- Canonical form, one entry at a time. -/
theorem wf_cons (k : Nat) (x : Byte) (m : Memory) :
    Memory.wf ((k, x) :: m) = true ↔ (∀ c ∈ m.head?, k < c.1) ∧ Memory.wf m = true := by
  cases m with
  | nil => simp [Memory.wf]
  | cons c rest => obtain ⟨a, y⟩ := c; simp [Memory.wf]

/-- The first index after a write is the old first one or the one written. -/
theorem head?_write (m : Memory) (i : Nat) (v : Byte) (c : Host.Cell) (h : c ∈ (Memory.write m i v).head?) :
    c.1 = i ∨ ∃ c' ∈ m.head?, c'.1 = c.1 := by
  cases m with
  | nil => simp [Memory.write] at h; simp [← h]
  | cons d rest =>
    obtain ⟨k, x⟩ := d
    simp only [Memory.write] at h
    split at h
    · simp at h; simp [← h]
    · split at h
      · simp at h; simp [← h]
      · simp at h; simp [← h]

/-- A write keeps the canonical form. -/
theorem wf_write (m : Memory) (i : Nat) (v : Byte) (h : Memory.wf m = true) :
    Memory.wf (Memory.write m i v) = true := by
  induction m with
  | nil => rfl
  | cons c rest ih =>
    obtain ⟨k, x⟩ := c
    obtain ⟨h1, h2⟩ := (wf_cons k x rest).1 h
    simp only [Memory.write]
    split
    · exact (wf_cons ..).2 ⟨by simpa using ‹i < k›, h⟩
    · split
      · subst i; exact (wf_cons ..).2 ⟨h1, h2⟩
      · refine (wf_cons ..).2 ⟨fun c hc => ?_, ih h2⟩
        obtain h3 | ⟨c', hc', h3⟩ := head?_write rest i v c hc
        · omega
        · exact h3 ▸ h1 c' hc'

/-- A write within the bound keeps every index within it. -/
theorem below_write (m : Memory) (n i : Nat) (v : Byte) (hi : i < n) (h : Memory.below n m = true) :
    Memory.below n (Memory.write m i v) = true := by
  induction m with
  | nil => simp [Memory.write, Memory.below, hi]
  | cons c rest ih =>
    obtain ⟨k, x⟩ := c
    simp only [Memory.below, List.all_cons, Bool.and_eq_true, decide_eq_true_eq] at h ih
    simp only [Memory.write]
    split
    · simp [Memory.below, hi, h.1]; simpa using h.2
    · split
      · simp [Memory.below, hi]; simpa using h.2
      · simp only [Memory.below, List.all_cons, Bool.and_eq_true, decide_eq_true_eq]
        exact ⟨h.1, ih h.2⟩

/-- A run of writes keeps the canonical form. -/
theorem wf_writeAll (vs : List Byte) (m : Memory) (i : Nat) (h : Memory.wf m = true) :
    Memory.wf (Memory.writeAll m i vs) = true := by
  induction vs generalizing m i with
  | nil => exact h
  | cons v vs ih => exact ih _ _ (wf_write m i v h)

/-- A run of writes within the bound keeps every index within it. -/
theorem below_writeAll (vs : List Byte) (m : Memory) (n i : Nat) (hi : i + vs.length ≤ n)
    (h : Memory.below n m = true) : Memory.below n (Memory.writeAll m i vs) = true := by
  induction vs generalizing m i with
  | nil => exact h
  | cons v vs ih =>
    simp only [List.length_cons] at hi
    exact ih _ _ (by omega) (below_write m n i v (by omega) h)

/-- Right after reset every buffer is in canonical form. -/
theorem reset_wf (b : BufferId) : Memory.wf (State.reset.mem b) = true := by cases b <;> rfl

end Sys2Proof.Machine
end

