-- ==== Sys2Proof/Laws/State.lean ====
section
/-! SUPPORT. What each named update of the state does to each field, one lemma per field per update, so that no proof unfolds
an update. -/

namespace Sys2Proof.Machine


/-! ## complete -/

@[simp] theorem complete_rxCount (r : Word) (s : State) : (complete r s).rxCount = s.rxCount := rfl
@[simp] theorem complete_rxEsc (r : Word) (s : State) : (complete r s).rxEsc = s.rxEsc := rfl
@[simp] theorem complete_rxOvf (r : Word) (s : State) : (complete r s).rxOvf = s.rxOvf := rfl
@[simp] theorem complete_rxReady (r : Word) (s : State) : (complete r s).rxReady = s.rxReady := rfl
@[simp] theorem complete_rxErr (r : Word) (s : State) : (complete r s).rxErr = s.rxErr := rfl
@[simp] theorem complete_rxErrCode (r : Word) (s : State) : (complete r s).rxErrCode = s.rxErrCode := rfl
@[simp] theorem complete_rxDiscard (r : Word) (s : State) : (complete r s).rxDiscard = s.rxDiscard := rfl
@[simp] theorem complete_rxLastMs (r : Word) (s : State) : (complete r s).rxLastMs = s.rxLastMs := rfl
@[simp] theorem complete_rxTimeout (r : Word) (s : State) : (complete r s).rxTimeout = s.rxTimeout := rfl
@[simp] theorem complete_txLen (r : Word) (s : State) : (complete r s).txLen = s.txLen := rfl
@[simp] theorem complete_txFrameLen (r : Word) (s : State) : (complete r s).txFrameLen = s.txFrameLen := rfl
@[simp] theorem complete_txValid (r : Word) (s : State) : (complete r s).txValid = s.txValid := rfl
@[simp] theorem complete_crcAcc (r : Word) (s : State) : (complete r s).crcAcc = s.crcAcc := rfl
@[simp] theorem complete_result (r : Word) (s : State) : (complete r s).result = r := rfl
@[simp] theorem complete_cmdResult (r : Word) (s : State) : (complete r s).cmdResult = .ok := rfl
@[simp] theorem complete_rxb (r : Word) (s : State) : (complete r s).rxb = s.rxb := rfl
@[simp] theorem complete_txp (r : Word) (s : State) : (complete r s).txp = s.txp := rfl
@[simp] theorem complete_txf (r : Word) (s : State) : (complete r s).txf = s.txf := rfl
@[simp] theorem complete_cfg (r : Word) (s : State) : (complete r s).cfg = s.cfg := rfl
@[simp] theorem complete_draws (r : Word) (s : State) : (complete r s).draws = s.draws := rfl
@[simp] theorem complete_nowMs (r : Word) (s : State) : (complete r s).nowMs = s.nowMs := rfl
@[simp] theorem complete_commands (r : Word) (s : State) : (complete r s).commands = s.commands := rfl

/-! ## cmdError -/

@[simp] theorem cmdError_rxCount (c : CmdResult) (s : State) : (cmdError c s).rxCount = s.rxCount := rfl
@[simp] theorem cmdError_rxEsc (c : CmdResult) (s : State) : (cmdError c s).rxEsc = s.rxEsc := rfl
@[simp] theorem cmdError_rxOvf (c : CmdResult) (s : State) : (cmdError c s).rxOvf = s.rxOvf := rfl
@[simp] theorem cmdError_rxReady (c : CmdResult) (s : State) : (cmdError c s).rxReady = s.rxReady := rfl
@[simp] theorem cmdError_rxErr (c : CmdResult) (s : State) : (cmdError c s).rxErr = s.rxErr := rfl
@[simp] theorem cmdError_rxErrCode (c : CmdResult) (s : State) : (cmdError c s).rxErrCode = s.rxErrCode := rfl
@[simp] theorem cmdError_rxDiscard (c : CmdResult) (s : State) : (cmdError c s).rxDiscard = s.rxDiscard := rfl
@[simp] theorem cmdError_rxLastMs (c : CmdResult) (s : State) : (cmdError c s).rxLastMs = s.rxLastMs := rfl
@[simp] theorem cmdError_rxTimeout (c : CmdResult) (s : State) : (cmdError c s).rxTimeout = s.rxTimeout := rfl
@[simp] theorem cmdError_txLen (c : CmdResult) (s : State) : (cmdError c s).txLen = s.txLen := rfl
@[simp] theorem cmdError_txFrameLen (c : CmdResult) (s : State) : (cmdError c s).txFrameLen = s.txFrameLen := rfl
@[simp] theorem cmdError_txValid (c : CmdResult) (s : State) : (cmdError c s).txValid = s.txValid := rfl
@[simp] theorem cmdError_crcAcc (c : CmdResult) (s : State) : (cmdError c s).crcAcc = s.crcAcc := rfl
@[simp] theorem cmdError_result (c : CmdResult) (s : State) : (cmdError c s).result = 0 := rfl
@[simp] theorem cmdError_cmdResult (c : CmdResult) (s : State) : (cmdError c s).cmdResult = c := rfl
@[simp] theorem cmdError_rxb (c : CmdResult) (s : State) : (cmdError c s).rxb = s.rxb := rfl
@[simp] theorem cmdError_txp (c : CmdResult) (s : State) : (cmdError c s).txp = s.txp := rfl
@[simp] theorem cmdError_txf (c : CmdResult) (s : State) : (cmdError c s).txf = s.txf := rfl
@[simp] theorem cmdError_cfg (c : CmdResult) (s : State) : (cmdError c s).cfg = s.cfg := rfl
@[simp] theorem cmdError_draws (c : CmdResult) (s : State) : (cmdError c s).draws = s.draws := rfl
@[simp] theorem cmdError_nowMs (c : CmdResult) (s : State) : (cmdError c s).nowMs = s.nowMs := rfl
@[simp] theorem cmdError_commands (c : CmdResult) (s : State) : (cmdError c s).commands = s.commands := rfl

/-! ## resetAll -/

@[simp] theorem resetAll_rxCount (s : State) : (resetAll s).rxCount = 0 := rfl
@[simp] theorem resetAll_rxEsc (s : State) : (resetAll s).rxEsc = false := rfl
@[simp] theorem resetAll_rxOvf (s : State) : (resetAll s).rxOvf = false := rfl
@[simp] theorem resetAll_rxReady (s : State) : (resetAll s).rxReady = false := rfl
@[simp] theorem resetAll_rxErr (s : State) : (resetAll s).rxErr = false := rfl
@[simp] theorem resetAll_rxErrCode (s : State) : (resetAll s).rxErrCode = none := rfl
@[simp] theorem resetAll_rxDiscard (s : State) : (resetAll s).rxDiscard = false := rfl
@[simp] theorem resetAll_rxLastMs (s : State) : (resetAll s).rxLastMs = 0 := rfl
@[simp] theorem resetAll_rxTimeout (s : State) : (resetAll s).rxTimeout = 100 := rfl
@[simp] theorem resetAll_txLen (s : State) : (resetAll s).txLen = 0 := rfl
@[simp] theorem resetAll_txFrameLen (s : State) : (resetAll s).txFrameLen = 0 := rfl
@[simp] theorem resetAll_txValid (s : State) : (resetAll s).txValid = false := rfl
@[simp] theorem resetAll_crcAcc (s : State) : (resetAll s).crcAcc = 0x00 := rfl
@[simp] theorem resetAll_result (s : State) : (resetAll s).result = 0 := rfl
@[simp] theorem resetAll_cmdResult (s : State) : (resetAll s).cmdResult = .ok := rfl
@[simp] theorem resetAll_rxb (s : State) : (resetAll s).rxb = [] := rfl
@[simp] theorem resetAll_txp (s : State) : (resetAll s).txp = [] := rfl
@[simp] theorem resetAll_txf (s : State) : (resetAll s).txf = [] := rfl
@[simp] theorem resetAll_cfg (s : State) : (resetAll s).cfg = s.cfg := rfl
@[simp] theorem resetAll_draws (s : State) : (resetAll s).draws = s.draws + 1 := rfl
@[simp] theorem resetAll_nowMs (s : State) : (resetAll s).nowMs = s.nowMs := rfl
@[simp] theorem resetAll_commands (s : State) : (resetAll s).commands = s.commands := rfl

/-! ## offer -/

@[simp] theorem offer_rxCount (s : State) (w t : Word) : (s.offer w t).rxCount = s.rxCount := rfl
@[simp] theorem offer_rxEsc (s : State) (w t : Word) : (s.offer w t).rxEsc = s.rxEsc := rfl
@[simp] theorem offer_rxOvf (s : State) (w t : Word) : (s.offer w t).rxOvf = s.rxOvf := rfl
@[simp] theorem offer_rxReady (s : State) (w t : Word) : (s.offer w t).rxReady = s.rxReady := rfl
@[simp] theorem offer_rxErr (s : State) (w t : Word) : (s.offer w t).rxErr = s.rxErr := rfl
@[simp] theorem offer_rxErrCode (s : State) (w t : Word) : (s.offer w t).rxErrCode = s.rxErrCode := rfl
@[simp] theorem offer_rxDiscard (s : State) (w t : Word) : (s.offer w t).rxDiscard = s.rxDiscard := rfl
@[simp] theorem offer_rxLastMs (s : State) (w t : Word) : (s.offer w t).rxLastMs = s.rxLastMs := rfl
@[simp] theorem offer_rxTimeout (s : State) (w t : Word) : (s.offer w t).rxTimeout = s.rxTimeout := rfl
@[simp] theorem offer_txLen (s : State) (w t : Word) : (s.offer w t).txLen = s.txLen := rfl
@[simp] theorem offer_txFrameLen (s : State) (w t : Word) : (s.offer w t).txFrameLen = s.txFrameLen := rfl
@[simp] theorem offer_txValid (s : State) (w t : Word) : (s.offer w t).txValid = s.txValid := rfl
@[simp] theorem offer_crcAcc (s : State) (w t : Word) : (s.offer w t).crcAcc = s.crcAcc := rfl
@[simp] theorem offer_result (s : State) (w t : Word) : (s.offer w t).result = s.result := rfl
@[simp] theorem offer_cmdResult (s : State) (w t : Word) : (s.offer w t).cmdResult = s.cmdResult := rfl
@[simp] theorem offer_rxb (s : State) (w t : Word) : (s.offer w t).rxb = s.rxb := rfl
@[simp] theorem offer_txp (s : State) (w t : Word) : (s.offer w t).txp = s.txp := rfl
@[simp] theorem offer_txf (s : State) (w t : Word) : (s.offer w t).txf = s.txf := rfl
@[simp] theorem offer_cfg (s : State) (w t : Word) : (s.offer w t).cfg = s.cfg := rfl
@[simp] theorem offer_draws (s : State) (w t : Word) : (s.offer w t).draws = s.draws := rfl
@[simp] theorem offer_nowMs (s : State) (w t : Word) : (s.offer w t).nowMs = s.nowMs := rfl
@[simp] theorem offer_commands (s : State) (w t : Word) : (s.offer w t).commands = ⟨w, t⟩ :: s.commands := rfl

/-! ## discardPartial -/

@[simp] theorem discardPartial_rxCount (s : State) : (discardPartial s).rxCount = 0 := rfl
@[simp] theorem discardPartial_rxEsc (s : State) : (discardPartial s).rxEsc = false := rfl
@[simp] theorem discardPartial_rxOvf (s : State) : (discardPartial s).rxOvf = false := rfl
@[simp] theorem discardPartial_rxReady (s : State) : (discardPartial s).rxReady = s.rxReady := rfl
@[simp] theorem discardPartial_rxErr (s : State) : (discardPartial s).rxErr = s.rxErr := rfl
@[simp] theorem discardPartial_rxErrCode (s : State) : (discardPartial s).rxErrCode = s.rxErrCode := rfl
@[simp] theorem discardPartial_rxDiscard (s : State) : (discardPartial s).rxDiscard = true := rfl
@[simp] theorem discardPartial_rxLastMs (s : State) : (discardPartial s).rxLastMs = s.rxLastMs := rfl
@[simp] theorem discardPartial_rxTimeout (s : State) : (discardPartial s).rxTimeout = s.rxTimeout := rfl
@[simp] theorem discardPartial_txLen (s : State) : (discardPartial s).txLen = s.txLen := rfl
@[simp] theorem discardPartial_txFrameLen (s : State) : (discardPartial s).txFrameLen = s.txFrameLen := rfl
@[simp] theorem discardPartial_txValid (s : State) : (discardPartial s).txValid = s.txValid := rfl
@[simp] theorem discardPartial_crcAcc (s : State) : (discardPartial s).crcAcc = s.crcAcc := rfl
@[simp] theorem discardPartial_result (s : State) : (discardPartial s).result = s.result := rfl
@[simp] theorem discardPartial_cmdResult (s : State) : (discardPartial s).cmdResult = s.cmdResult := rfl
@[simp] theorem discardPartial_rxb (s : State) : (discardPartial s).rxb = s.rxb := rfl
@[simp] theorem discardPartial_txp (s : State) : (discardPartial s).txp = s.txp := rfl
@[simp] theorem discardPartial_txf (s : State) : (discardPartial s).txf = s.txf := rfl
@[simp] theorem discardPartial_cfg (s : State) : (discardPartial s).cfg = s.cfg := rfl
@[simp] theorem discardPartial_draws (s : State) : (discardPartial s).draws = s.draws := rfl
@[simp] theorem discardPartial_nowMs (s : State) : (discardPartial s).nowMs = s.nowMs := rfl
@[simp] theorem discardPartial_commands (s : State) : (discardPartial s).commands = s.commands := rfl

/-! ## rejectFrame -/

@[simp] theorem rejectFrame_rxCount (r : FrameReason) (s : State) : (rejectFrame r s).rxCount = 0 := rfl
@[simp] theorem rejectFrame_rxEsc (r : FrameReason) (s : State) : (rejectFrame r s).rxEsc = false := rfl
@[simp] theorem rejectFrame_rxOvf (r : FrameReason) (s : State) : (rejectFrame r s).rxOvf = false := rfl
@[simp] theorem rejectFrame_rxReady (r : FrameReason) (s : State) : (rejectFrame r s).rxReady = s.rxReady := rfl
@[simp] theorem rejectFrame_rxErr (r : FrameReason) (s : State) : (rejectFrame r s).rxErr = true := rfl
@[simp] theorem rejectFrame_rxErrCode (r : FrameReason) (s : State) : (rejectFrame r s).rxErrCode = some r := rfl
@[simp] theorem rejectFrame_rxDiscard (r : FrameReason) (s : State) : (rejectFrame r s).rxDiscard = s.rxDiscard := rfl
@[simp] theorem rejectFrame_rxLastMs (r : FrameReason) (s : State) : (rejectFrame r s).rxLastMs = s.rxLastMs := rfl
@[simp] theorem rejectFrame_rxTimeout (r : FrameReason) (s : State) : (rejectFrame r s).rxTimeout = s.rxTimeout := rfl
@[simp] theorem rejectFrame_txLen (r : FrameReason) (s : State) : (rejectFrame r s).txLen = s.txLen := rfl
@[simp] theorem rejectFrame_txFrameLen (r : FrameReason) (s : State) : (rejectFrame r s).txFrameLen = s.txFrameLen := rfl
@[simp] theorem rejectFrame_txValid (r : FrameReason) (s : State) : (rejectFrame r s).txValid = s.txValid := rfl
@[simp] theorem rejectFrame_crcAcc (r : FrameReason) (s : State) : (rejectFrame r s).crcAcc = s.crcAcc := rfl
@[simp] theorem rejectFrame_result (r : FrameReason) (s : State) : (rejectFrame r s).result = s.result := rfl
@[simp] theorem rejectFrame_cmdResult (r : FrameReason) (s : State) : (rejectFrame r s).cmdResult = s.cmdResult := rfl
@[simp] theorem rejectFrame_rxb (r : FrameReason) (s : State) : (rejectFrame r s).rxb = s.rxb := rfl
@[simp] theorem rejectFrame_txp (r : FrameReason) (s : State) : (rejectFrame r s).txp = s.txp := rfl
@[simp] theorem rejectFrame_txf (r : FrameReason) (s : State) : (rejectFrame r s).txf = s.txf := rfl
@[simp] theorem rejectFrame_cfg (r : FrameReason) (s : State) : (rejectFrame r s).cfg = s.cfg := rfl
@[simp] theorem rejectFrame_draws (r : FrameReason) (s : State) : (rejectFrame r s).draws = s.draws := rfl
@[simp] theorem rejectFrame_nowMs (r : FrameReason) (s : State) : (rejectFrame r s).nowMs = s.nowMs := rfl
@[simp] theorem rejectFrame_commands (r : FrameReason) (s : State) : (rejectFrame r s).commands = s.commands := rfl

/-! ## holdFrame -/

@[simp] theorem holdFrame_rxCount (s : State) : (holdFrame s).rxCount = s.rxCount := rfl
@[simp] theorem holdFrame_rxEsc (s : State) : (holdFrame s).rxEsc = s.rxEsc := rfl
@[simp] theorem holdFrame_rxOvf (s : State) : (holdFrame s).rxOvf = s.rxOvf := rfl
@[simp] theorem holdFrame_rxReady (s : State) : (holdFrame s).rxReady = true := rfl
@[simp] theorem holdFrame_rxErr (s : State) : (holdFrame s).rxErr = s.rxErr := rfl
@[simp] theorem holdFrame_rxErrCode (s : State) : (holdFrame s).rxErrCode = s.rxErrCode := rfl
@[simp] theorem holdFrame_rxDiscard (s : State) : (holdFrame s).rxDiscard = s.rxDiscard := rfl
@[simp] theorem holdFrame_rxLastMs (s : State) : (holdFrame s).rxLastMs = s.rxLastMs := rfl
@[simp] theorem holdFrame_rxTimeout (s : State) : (holdFrame s).rxTimeout = s.rxTimeout := rfl
@[simp] theorem holdFrame_txLen (s : State) : (holdFrame s).txLen = s.txLen := rfl
@[simp] theorem holdFrame_txFrameLen (s : State) : (holdFrame s).txFrameLen = s.txFrameLen := rfl
@[simp] theorem holdFrame_txValid (s : State) : (holdFrame s).txValid = s.txValid := rfl
@[simp] theorem holdFrame_crcAcc (s : State) : (holdFrame s).crcAcc = s.crcAcc := rfl
@[simp] theorem holdFrame_result (s : State) : (holdFrame s).result = s.result := rfl
@[simp] theorem holdFrame_cmdResult (s : State) : (holdFrame s).cmdResult = s.cmdResult := rfl
@[simp] theorem holdFrame_rxb (s : State) : (holdFrame s).rxb = s.rxb := rfl
@[simp] theorem holdFrame_txp (s : State) : (holdFrame s).txp = s.txp := rfl
@[simp] theorem holdFrame_txf (s : State) : (holdFrame s).txf = s.txf := rfl
@[simp] theorem holdFrame_cfg (s : State) : (holdFrame s).cfg = s.cfg := rfl
@[simp] theorem holdFrame_draws (s : State) : (holdFrame s).draws = s.draws := rfl
@[simp] theorem holdFrame_nowMs (s : State) : (holdFrame s).nowMs = s.nowMs := rfl
@[simp] theorem holdFrame_commands (s : State) : (holdFrame s).commands = s.commands := rfl

/-! ## clearSticky -/

@[simp] theorem clearSticky_rxCount (s : State) : (clearSticky s).rxCount = s.rxCount := rfl
@[simp] theorem clearSticky_rxEsc (s : State) : (clearSticky s).rxEsc = s.rxEsc := rfl
@[simp] theorem clearSticky_rxOvf (s : State) : (clearSticky s).rxOvf = s.rxOvf := rfl
@[simp] theorem clearSticky_rxReady (s : State) : (clearSticky s).rxReady = s.rxReady := rfl
@[simp] theorem clearSticky_rxErr (s : State) : (clearSticky s).rxErr = false := rfl
@[simp] theorem clearSticky_rxErrCode (s : State) : (clearSticky s).rxErrCode = none := rfl
@[simp] theorem clearSticky_rxDiscard (s : State) : (clearSticky s).rxDiscard = false := rfl
@[simp] theorem clearSticky_rxLastMs (s : State) : (clearSticky s).rxLastMs = s.rxLastMs := rfl
@[simp] theorem clearSticky_rxTimeout (s : State) : (clearSticky s).rxTimeout = s.rxTimeout := rfl
@[simp] theorem clearSticky_txLen (s : State) : (clearSticky s).txLen = s.txLen := rfl
@[simp] theorem clearSticky_txFrameLen (s : State) : (clearSticky s).txFrameLen = s.txFrameLen := rfl
@[simp] theorem clearSticky_txValid (s : State) : (clearSticky s).txValid = s.txValid := rfl
@[simp] theorem clearSticky_crcAcc (s : State) : (clearSticky s).crcAcc = s.crcAcc := rfl
@[simp] theorem clearSticky_result (s : State) : (clearSticky s).result = s.result := rfl
@[simp] theorem clearSticky_cmdResult (s : State) : (clearSticky s).cmdResult = s.cmdResult := rfl
@[simp] theorem clearSticky_rxb (s : State) : (clearSticky s).rxb = s.rxb := rfl
@[simp] theorem clearSticky_txp (s : State) : (clearSticky s).txp = s.txp := rfl
@[simp] theorem clearSticky_txf (s : State) : (clearSticky s).txf = s.txf := rfl
@[simp] theorem clearSticky_cfg (s : State) : (clearSticky s).cfg = s.cfg := rfl
@[simp] theorem clearSticky_draws (s : State) : (clearSticky s).draws = s.draws := rfl
@[simp] theorem clearSticky_nowMs (s : State) : (clearSticky s).nowMs = s.nowMs := rfl
@[simp] theorem clearSticky_commands (s : State) : (clearSticky s).commands = s.commands := rfl

/-! ## recordFrame -/

@[simp] theorem recordFrame_rxCount (n : Nat) (s : State) : (recordFrame n s).rxCount = s.rxCount := rfl
@[simp] theorem recordFrame_rxEsc (n : Nat) (s : State) : (recordFrame n s).rxEsc = s.rxEsc := rfl
@[simp] theorem recordFrame_rxOvf (n : Nat) (s : State) : (recordFrame n s).rxOvf = s.rxOvf := rfl
@[simp] theorem recordFrame_rxReady (n : Nat) (s : State) : (recordFrame n s).rxReady = s.rxReady := rfl
@[simp] theorem recordFrame_rxErr (n : Nat) (s : State) : (recordFrame n s).rxErr = s.rxErr := rfl
@[simp] theorem recordFrame_rxErrCode (n : Nat) (s : State) : (recordFrame n s).rxErrCode = s.rxErrCode := rfl
@[simp] theorem recordFrame_rxDiscard (n : Nat) (s : State) : (recordFrame n s).rxDiscard = s.rxDiscard := rfl
@[simp] theorem recordFrame_rxLastMs (n : Nat) (s : State) : (recordFrame n s).rxLastMs = s.rxLastMs := rfl
@[simp] theorem recordFrame_rxTimeout (n : Nat) (s : State) : (recordFrame n s).rxTimeout = s.rxTimeout := rfl
@[simp] theorem recordFrame_txLen (n : Nat) (s : State) : (recordFrame n s).txLen = s.txLen := rfl
@[simp] theorem recordFrame_txFrameLen (n : Nat) (s : State) : (recordFrame n s).txFrameLen = BitVec.ofNat 18 n := rfl
@[simp] theorem recordFrame_txValid (n : Nat) (s : State) : (recordFrame n s).txValid = true := rfl
@[simp] theorem recordFrame_crcAcc (n : Nat) (s : State) : (recordFrame n s).crcAcc = s.crcAcc := rfl
@[simp] theorem recordFrame_result (n : Nat) (s : State) : (recordFrame n s).result = s.result := rfl
@[simp] theorem recordFrame_cmdResult (n : Nat) (s : State) : (recordFrame n s).cmdResult = s.cmdResult := rfl
@[simp] theorem recordFrame_rxb (n : Nat) (s : State) : (recordFrame n s).rxb = s.rxb := rfl
@[simp] theorem recordFrame_txp (n : Nat) (s : State) : (recordFrame n s).txp = s.txp := rfl
@[simp] theorem recordFrame_txf (n : Nat) (s : State) : (recordFrame n s).txf = s.txf := rfl
@[simp] theorem recordFrame_cfg (n : Nat) (s : State) : (recordFrame n s).cfg = s.cfg := rfl
@[simp] theorem recordFrame_draws (n : Nat) (s : State) : (recordFrame n s).draws = s.draws := rfl
@[simp] theorem recordFrame_nowMs (n : Nat) (s : State) : (recordFrame n s).nowMs = s.nowMs := rfl
@[simp] theorem recordFrame_commands (n : Nat) (s : State) : (recordFrame n s).commands = s.commands := rfl

/-! ## setMem -/

@[simp] theorem setMem_rxCount (s : State) (b : BufferId) (m : Memory) : (s.setMem b m).rxCount = s.rxCount := by cases b <;> rfl
@[simp] theorem setMem_rxEsc (s : State) (b : BufferId) (m : Memory) : (s.setMem b m).rxEsc = s.rxEsc := by cases b <;> rfl
@[simp] theorem setMem_rxOvf (s : State) (b : BufferId) (m : Memory) : (s.setMem b m).rxOvf = s.rxOvf := by cases b <;> rfl
@[simp] theorem setMem_rxReady (s : State) (b : BufferId) (m : Memory) : (s.setMem b m).rxReady = s.rxReady := by cases b <;> rfl
@[simp] theorem setMem_rxErr (s : State) (b : BufferId) (m : Memory) : (s.setMem b m).rxErr = s.rxErr := by cases b <;> rfl
@[simp] theorem setMem_rxErrCode (s : State) (b : BufferId) (m : Memory) : (s.setMem b m).rxErrCode = s.rxErrCode := by cases b <;> rfl
@[simp] theorem setMem_rxDiscard (s : State) (b : BufferId) (m : Memory) : (s.setMem b m).rxDiscard = s.rxDiscard := by cases b <;> rfl
@[simp] theorem setMem_rxLastMs (s : State) (b : BufferId) (m : Memory) : (s.setMem b m).rxLastMs = s.rxLastMs := by cases b <;> rfl
@[simp] theorem setMem_rxTimeout (s : State) (b : BufferId) (m : Memory) : (s.setMem b m).rxTimeout = s.rxTimeout := by cases b <;> rfl
@[simp] theorem setMem_txLen (s : State) (b : BufferId) (m : Memory) : (s.setMem b m).txLen = s.txLen := by cases b <;> rfl
@[simp] theorem setMem_txFrameLen (s : State) (b : BufferId) (m : Memory) : (s.setMem b m).txFrameLen = s.txFrameLen := by cases b <;> rfl
@[simp] theorem setMem_txValid (s : State) (b : BufferId) (m : Memory) : (s.setMem b m).txValid = s.txValid := by cases b <;> rfl
@[simp] theorem setMem_crcAcc (s : State) (b : BufferId) (m : Memory) : (s.setMem b m).crcAcc = s.crcAcc := by cases b <;> rfl
@[simp] theorem setMem_result (s : State) (b : BufferId) (m : Memory) : (s.setMem b m).result = s.result := by cases b <;> rfl
@[simp] theorem setMem_cmdResult (s : State) (b : BufferId) (m : Memory) : (s.setMem b m).cmdResult = s.cmdResult := by cases b <;> rfl
@[simp] theorem setMem_rxb_rxb (s : State) (m : Memory) : (s.setMem .rxb m).rxb = m := rfl
@[simp] theorem setMem_txp_rxb (s : State) (m : Memory) : (s.setMem .txp m).rxb = s.rxb := rfl
@[simp] theorem setMem_txf_rxb (s : State) (m : Memory) : (s.setMem .txf m).rxb = s.rxb := rfl
@[simp] theorem setMem_rxb_txp (s : State) (m : Memory) : (s.setMem .rxb m).txp = s.txp := rfl
@[simp] theorem setMem_txp_txp (s : State) (m : Memory) : (s.setMem .txp m).txp = m := rfl
@[simp] theorem setMem_txf_txp (s : State) (m : Memory) : (s.setMem .txf m).txp = s.txp := rfl
@[simp] theorem setMem_rxb_txf (s : State) (m : Memory) : (s.setMem .rxb m).txf = s.txf := rfl
@[simp] theorem setMem_txp_txf (s : State) (m : Memory) : (s.setMem .txp m).txf = s.txf := rfl
@[simp] theorem setMem_txf_txf (s : State) (m : Memory) : (s.setMem .txf m).txf = m := rfl
@[simp] theorem setMem_cfg (s : State) (b : BufferId) (m : Memory) : (s.setMem b m).cfg = s.cfg := by cases b <;> rfl
@[simp] theorem setMem_draws (s : State) (b : BufferId) (m : Memory) : (s.setMem b m).draws = s.draws := by cases b <;> rfl
@[simp] theorem setMem_nowMs (s : State) (b : BufferId) (m : Memory) : (s.setMem b m).nowMs = s.nowMs := by cases b <;> rfl
@[simp] theorem setMem_commands (s : State) (b : BufferId) (m : Memory) : (s.setMem b m).commands = s.commands := by cases b <;> rfl

/-! ## updates that act only under a condition -/

@[simp] theorem timeoutCheck_rxReady (s : State) : (timeoutCheck s).rxReady = s.rxReady := by unfold timeoutCheck; split <;> rfl
@[simp] theorem timeoutCheck_rxErr (s : State) : (timeoutCheck s).rxErr = s.rxErr := by unfold timeoutCheck; split <;> rfl
@[simp] theorem timeoutCheck_rxErrCode (s : State) : (timeoutCheck s).rxErrCode = s.rxErrCode := by unfold timeoutCheck; split <;> rfl
@[simp] theorem timeoutCheck_rxLastMs (s : State) : (timeoutCheck s).rxLastMs = s.rxLastMs := by unfold timeoutCheck; split <;> rfl
@[simp] theorem timeoutCheck_rxTimeout (s : State) : (timeoutCheck s).rxTimeout = s.rxTimeout := by unfold timeoutCheck; split <;> rfl
@[simp] theorem timeoutCheck_txLen (s : State) : (timeoutCheck s).txLen = s.txLen := by unfold timeoutCheck; split <;> rfl
@[simp] theorem timeoutCheck_txFrameLen (s : State) : (timeoutCheck s).txFrameLen = s.txFrameLen := by unfold timeoutCheck; split <;> rfl
@[simp] theorem timeoutCheck_txValid (s : State) : (timeoutCheck s).txValid = s.txValid := by unfold timeoutCheck; split <;> rfl
@[simp] theorem timeoutCheck_crcAcc (s : State) : (timeoutCheck s).crcAcc = s.crcAcc := by unfold timeoutCheck; split <;> rfl
@[simp] theorem timeoutCheck_result (s : State) : (timeoutCheck s).result = s.result := by unfold timeoutCheck; split <;> rfl
@[simp] theorem timeoutCheck_cmdResult (s : State) : (timeoutCheck s).cmdResult = s.cmdResult := by unfold timeoutCheck; split <;> rfl
@[simp] theorem timeoutCheck_rxb (s : State) : (timeoutCheck s).rxb = s.rxb := by unfold timeoutCheck; split <;> rfl
@[simp] theorem timeoutCheck_txp (s : State) : (timeoutCheck s).txp = s.txp := by unfold timeoutCheck; split <;> rfl
@[simp] theorem timeoutCheck_txf (s : State) : (timeoutCheck s).txf = s.txf := by unfold timeoutCheck; split <;> rfl
@[simp] theorem timeoutCheck_cfg (s : State) : (timeoutCheck s).cfg = s.cfg := by unfold timeoutCheck; split <;> rfl
@[simp] theorem timeoutCheck_draws (s : State) : (timeoutCheck s).draws = s.draws := by unfold timeoutCheck; split <;> rfl
@[simp] theorem timeoutCheck_nowMs (s : State) : (timeoutCheck s).nowMs = s.nowMs := by unfold timeoutCheck; split <;> rfl
@[simp] theorem timeoutCheck_commands (s : State) : (timeoutCheck s).commands = s.commands := by unfold timeoutCheck; split <;> rfl
@[simp] theorem beforeByte_rxReady (s : State) : (beforeByte s).rxReady = s.rxReady := by simp [beforeByte]
@[simp] theorem beforeByte_rxErr (s : State) : (beforeByte s).rxErr = s.rxErr := by simp [beforeByte]
@[simp] theorem beforeByte_rxErrCode (s : State) : (beforeByte s).rxErrCode = s.rxErrCode := by simp [beforeByte]
@[simp] theorem beforeByte_rxTimeout (s : State) : (beforeByte s).rxTimeout = s.rxTimeout := by simp [beforeByte]
@[simp] theorem beforeByte_txLen (s : State) : (beforeByte s).txLen = s.txLen := by simp [beforeByte]
@[simp] theorem beforeByte_txFrameLen (s : State) : (beforeByte s).txFrameLen = s.txFrameLen := by simp [beforeByte]
@[simp] theorem beforeByte_txValid (s : State) : (beforeByte s).txValid = s.txValid := by simp [beforeByte]
@[simp] theorem beforeByte_crcAcc (s : State) : (beforeByte s).crcAcc = s.crcAcc := by simp [beforeByte]
@[simp] theorem beforeByte_result (s : State) : (beforeByte s).result = s.result := by simp [beforeByte]
@[simp] theorem beforeByte_cmdResult (s : State) : (beforeByte s).cmdResult = s.cmdResult := by simp [beforeByte]
@[simp] theorem beforeByte_rxb (s : State) : (beforeByte s).rxb = s.rxb := by simp [beforeByte]
@[simp] theorem beforeByte_txp (s : State) : (beforeByte s).txp = s.txp := by simp [beforeByte]
@[simp] theorem beforeByte_txf (s : State) : (beforeByte s).txf = s.txf := by simp [beforeByte]
@[simp] theorem beforeByte_cfg (s : State) : (beforeByte s).cfg = s.cfg := by simp [beforeByte]
@[simp] theorem beforeByte_draws (s : State) : (beforeByte s).draws = s.draws := by simp [beforeByte]
@[simp] theorem beforeByte_nowMs (s : State) : (beforeByte s).nowMs = s.nowMs := by simp [beforeByte]
@[simp] theorem beforeByte_commands (s : State) : (beforeByte s).commands = s.commands := by simp [beforeByte]
@[simp] theorem freeHeld_rxEsc (s : State) : (freeHeld s).rxEsc = s.rxEsc := by unfold freeHeld; split <;> rfl
@[simp] theorem freeHeld_rxOvf (s : State) : (freeHeld s).rxOvf = s.rxOvf := by unfold freeHeld; split <;> rfl
@[simp] theorem freeHeld_rxErr (s : State) : (freeHeld s).rxErr = s.rxErr := by unfold freeHeld; split <;> rfl
@[simp] theorem freeHeld_rxErrCode (s : State) : (freeHeld s).rxErrCode = s.rxErrCode := by unfold freeHeld; split <;> rfl
@[simp] theorem freeHeld_rxDiscard (s : State) : (freeHeld s).rxDiscard = s.rxDiscard := by unfold freeHeld; split <;> rfl
@[simp] theorem freeHeld_rxLastMs (s : State) : (freeHeld s).rxLastMs = s.rxLastMs := by unfold freeHeld; split <;> rfl
@[simp] theorem freeHeld_rxTimeout (s : State) : (freeHeld s).rxTimeout = s.rxTimeout := by unfold freeHeld; split <;> rfl
@[simp] theorem freeHeld_txLen (s : State) : (freeHeld s).txLen = s.txLen := by unfold freeHeld; split <;> rfl
@[simp] theorem freeHeld_txFrameLen (s : State) : (freeHeld s).txFrameLen = s.txFrameLen := by unfold freeHeld; split <;> rfl
@[simp] theorem freeHeld_txValid (s : State) : (freeHeld s).txValid = s.txValid := by unfold freeHeld; split <;> rfl
@[simp] theorem freeHeld_crcAcc (s : State) : (freeHeld s).crcAcc = s.crcAcc := by unfold freeHeld; split <;> rfl
@[simp] theorem freeHeld_result (s : State) : (freeHeld s).result = s.result := by unfold freeHeld; split <;> rfl
@[simp] theorem freeHeld_cmdResult (s : State) : (freeHeld s).cmdResult = s.cmdResult := by unfold freeHeld; split <;> rfl
@[simp] theorem freeHeld_rxb (s : State) : (freeHeld s).rxb = s.rxb := by unfold freeHeld; split <;> rfl
@[simp] theorem freeHeld_txp (s : State) : (freeHeld s).txp = s.txp := by unfold freeHeld; split <;> rfl
@[simp] theorem freeHeld_txf (s : State) : (freeHeld s).txf = s.txf := by unfold freeHeld; split <;> rfl
@[simp] theorem freeHeld_cfg (s : State) : (freeHeld s).cfg = s.cfg := by unfold freeHeld; split <;> rfl
@[simp] theorem freeHeld_draws (s : State) : (freeHeld s).draws = s.draws := by unfold freeHeld; split <;> rfl
@[simp] theorem freeHeld_nowMs (s : State) : (freeHeld s).nowMs = s.nowMs := by unfold freeHeld; split <;> rfl
@[simp] theorem freeHeld_commands (s : State) : (freeHeld s).commands = s.commands := by unfold freeHeld; split <;> rfl
@[simp] theorem beforeByte_rxLastMs (s : State) : (beforeByte s).rxLastMs = s.nowMs := rfl
@[simp] theorem freeHeld_rxReady (s : State) : (freeHeld s).rxReady = false := by unfold freeHeld; split <;> simp_all

end Sys2Proof.Machine
end

