-- ==== Sys2Proof/Laws/Ops.lean ====
section
/-! SUPPORT. What each shared operation can do, said once: the buffer accesses and the taking of a command. -/

namespace Sys2Proof.Machine

/-! ## The byte a buffer holds -/

@[simp] theorem mem_setMem_same (s : State) (b : BufferId) (m : Memory) : (s.setMem b m).mem b = m := by
  cases b <;> rfl

theorem mem_setMem_other (s : State) {b b' : BufferId} (m : Memory) (h : b' ≠ b) :
    (s.setMem b m).mem b' = s.mem b' := by
  cases b <;> cases b' <;> first | rfl | exact absurd rfl h

/-- A byte depends on its buffer's contents and on the draw, and on nothing else of the state. -/
theorem byteAt_congr {s t : State} {b : BufferId} (hm : s.mem b = t.mem b) (hd : s.draws = t.draws) (i : Nat) :
    byteAt s b i = byteAt t b i := by simp [byteAt, hm, hd]

/-- So do the first `n` bytes. -/
theorem bytesAt_congr {s t : State} {b : BufferId} (hm : s.mem b = t.mem b) (hd : s.draws = t.draws) (n : Nat) :
    bytesAt s b n = bytesAt t b n := by
  simp only [bytesAt]
  exact List.map_congr_left fun i _ => byteAt_congr hm hd i

@[simp] theorem length_bytesAt (s : State) (b : BufferId) (n : Nat) : (bytesAt s b n).length = n := by
  simp [bytesAt]

theorem getElem?_bytesAt (s : State) (b : BufferId) (n i : Nat) (h : i < n) :
    (bytesAt s b n)[i]? = some (byteAt s b i) := by simp [bytesAt, h]

theorem bytesAt_succ (s : State) (b : BufferId) (n : Nat) : bytesAt s b (n + 1) = bytesAt s b n ++ [byteAt s b n] := by
  simp [bytesAt, List.range_succ]

/-- A buffer byte after a write. -/
theorem byteAt_setMem_write (s : State) (b : BufferId) (i j : Nat) (v : Byte) :
    byteAt (s.setMem b (Memory.write (s.mem b) i v)) b j = if j = i then v else byteAt s b j := by
  simp only [byteAt, mem_setMem_same, read?_write, setMem_draws]
  split <;> rfl

/-- A buffer byte after a run of writes from index 0. -/
theorem byteAt_setMem_writeAll (s : State) (b : BufferId) (vs : List Byte) (j : Nat) :
    byteAt (s.setMem b (Memory.writeAll (s.mem b) 0 vs)) b j =
      if h : j < vs.length then vs[j] else byteAt s b j := by
  simp only [byteAt, mem_setMem_same, read?_writeAll, setMem_draws]
  by_cases h : j < vs.length <;> simp [h]

/-- The other buffers' bytes after any change of one buffer. -/
theorem byteAt_setMem_other (s : State) {b b' : BufferId} (m : Memory) (h : b' ≠ b) (j : Nat) :
    byteAt (s.setMem b m) b' j = byteAt s b' j :=
  byteAt_congr (mem_setMem_other s m h) (setMem_draws s b m) j

/-! ## The accesses -/

theorem memRead_of_lt {s : State} {b : BufferId} {i : Nat} (h : i < s.cfg.size b) :
    memRead s b i = .ok (byteAt s b i) := if_pos h

theorem memReadRange_of_le {s : State} {b : BufferId} {n : Nat} (h : n ≤ s.cfg.size b) :
    memReadRange s b n = .ok (bytesAt s b n) := if_pos h

theorem memWrite_of_lt {s : State} {b : BufferId} {i : Nat} {v : Byte} (h : i < s.cfg.size b) :
    memWrite b i v s = .ok (s.setMem b (Memory.write (s.mem b) i v)) := if_pos h

theorem memWriteRange_of_le {s : State} {b : BufferId} {vs : List Byte} (h : vs.length ≤ s.cfg.size b) :
    memWriteRange b vs s = .ok (s.setMem b (Memory.writeAll (s.mem b) 0 vs)) := if_pos h

/-- If a read answers a byte, the index exists and the byte is the buffer's. -/
theorem memRead_ok {s : State} {b : BufferId} {i : Nat} {v : Byte} (h : memRead s b i = .ok v) :
    i < s.cfg.size b ∧ v = byteAt s b i := by
  simp only [memRead] at h
  split at h
  · exact ⟨‹_›, by simpa using h.symm⟩
  · simp at h

theorem memReadRange_ok {s : State} {b : BufferId} {n : Nat} {vs : List Byte} (h : memReadRange s b n = .ok vs) :
    n ≤ s.cfg.size b ∧ vs = bytesAt s b n := by
  simp only [memReadRange] at h
  split at h
  · exact ⟨‹_›, by simpa using h.symm⟩
  · simp at h

theorem memWrite_ok {s t : State} {b : BufferId} {i : Nat} {v : Byte} (h : memWrite b i v s = .ok t) :
    i < s.cfg.size b ∧ t = s.setMem b (Memory.write (s.mem b) i v) := by
  simp only [memWrite] at h
  split at h
  · exact ⟨‹_›, by simpa using h.symm⟩
  · simp at h

theorem memWriteRange_ok {s t : State} {b : BufferId} {vs : List Byte} (h : memWriteRange b vs s = .ok t) :
    vs.length ≤ s.cfg.size b ∧ t = s.setMem b (Memory.writeAll (s.mem b) 0 vs) := by
  simp only [memWriteRange] at h
  split at h
  · exact ⟨‹_›, by simpa using h.symm⟩
  · simp at h

/-! ## Sizes -/

@[simp] theorem size_rxb (c : Config) : c.size .rxb = c.rxBufSize := rfl
@[simp] theorem size_txp (c : Config) : c.size .txp = c.maxTxPayload.val := rfl
@[simp] theorem size_txf (c : Config) : c.size .txf = c.txfSize := rfl

theorem rxBufSize_range (c : Config) : 8 ≤ c.rxBufSize ∧ c.rxBufSize ≤ 65543 := by
  have := c.rxPayloadMax.isLt
  simp only [Config.rxBufSize]; omega

theorem txfSize_range (c : Config) : 18 ≤ c.txfSize ∧ c.txfSize ≤ 131088 := by
  have := c.maxTxPayload.isLt
  simp only [Config.txfSize]; omega

/-! ## The command port -/

theorem takeCommand_nil {s : State} (h : s.commands = []) : takeCommand s = none := by simp [takeCommand, h]

theorem takeCommand_cons {s : State} {c : PortWrite} {rest : List PortWrite} (h : s.commands = c :: rest) :
    takeCommand s = some (c.word, { s with nowMs := c.nowMs, commands := rest }) := by simp [takeCommand, h]

theorem takeCommand_offer (s : State) (w t : Word) : takeCommand (s.offer w t) = some (w, { s with nowMs := t }) := rfl

end Sys2Proof.Machine
end

