-- ==== Sys2Proof/Laws/Receive.lean ====
section
/-! SUPPORT. What the decoder's operations can do, said once: the timeout check in plain arithmetic, one pushed byte case by
case, and the verdict at a delimiter in the words of the claims. -/

namespace Sys2Proof.Machine

/-! ## The timeout -/

theorem hasPartial_iff (s : State) : hasPartial s = true ↔ Partial s := by
  simp [hasPartial, Partial, or_assoc]

theorem elapsedMs_toNat (s : State) :
    (elapsedMs s).toNat = (s.nowMs.toNat + 2 ^ 32 - s.rxLastMs.toNat) % 2 ^ 32 := by
  have := s.rxLastMs.isLt
  rw [elapsedMs, BitVec.toNat_sub]; congr 1; omega

/-- What the timeout check tests is staleness (R93). -/
theorem timedOut_iff (s : State) : timedOut s = true ↔ Stale s := by
  simp [timedOut, Stale, hasPartial_iff, elapsedMs_toNat]

theorem timeoutCheck_of_stale {s : State} (h : Stale s) : timeoutCheck s = discardPartial s :=
  if_pos ((timedOut_iff s).2 h)

theorem timeoutCheck_of_not_stale {s : State} (h : ¬ Stale s) : timeoutCheck s = s :=
  if_neg (mt (timedOut_iff s).1 h)

theorem Idle.not_stale {s : State} (h : Idle s) : ¬ Stale s := by
  obtain ⟨-, h1, h2, h3⟩ := h
  simp [Stale, Partial, h1, h2, h3]

theorem beforeByte_of_not_stale {s : State} (h : ¬ Stale s) : beforeByte s = { s with rxLastMs := s.nowMs } := by
  simp [beforeByte, timeoutCheck_of_not_stale h]

theorem beforeByte_of_stale {s : State} (h : Stale s) :
    beforeByte s = { discardPartial s with rxLastMs := s.nowMs } := by
  simp [beforeByte, timeoutCheck_of_stale h]

/-- The timeout check never raises the count. -/
theorem beforeByte_rxCount_le (s : State) : (beforeByte s).rxCount.toNat ≤ s.rxCount.toNat := by
  by_cases h : Stale s
  · simp [beforeByte_of_stale h]
  · simp [beforeByte_of_not_stale h]

/-! ## One pushed byte -/

theorem storeByte_of_lt {d : Byte} {s : State} (h : s.rxCount.toNat < s.cfg.rxBufSize) :
    storeByte d s =
      .ok { s with rxb := Memory.write s.rxb s.rxCount.toNat d, rxCount := s.rxCount + 1 } := by
  rw [storeByte, if_pos h, memWrite_of_lt (by simpa using h)]
  rfl

theorem storeByte_of_ge {d : Byte} {s : State} (h : s.cfg.rxBufSize ≤ s.rxCount.toNat) :
    storeByte d s = .ok { s with rxOvf := true } := if_neg (by omega)

/-- `EndOfFrame()` on a count in its range. -/
theorem endOfFrame_of_le {s : State} (h : s.rxCount.toNat ≤ s.cfg.rxBufSize) :
    endOfFrame s = .ok (closeFrame (validate s.rxEsc s.rxOvf (buffered s)) s) := by
  rw [endOfFrame, memReadRange_of_le (by simpa using h)]
  rfl

theorem endOfFrame_of_gt {s : State} (h : s.cfg.rxBufSize < s.rxCount.toNat) :
    endOfFrame s = .error (.outsideBuffer .rxb) := by
  rw [endOfFrame, memReadRange, if_neg (by simpa using h)]

/-- EVERYTHING `RX_PUSH` CAN DO (R93 to R97, R103), by cases on the state after the timeout check. -/
theorem execRxPush_eq (d : Byte) (s : State) :
    execRxPush d s =
      if s.rxReady then .next (cmdError .busy s)
      else if d = 0x7E then
        if (beforeByte s).rxCount.toNat ≤ s.cfg.rxBufSize then
          .next (complete
            (outcomeWord (closeFrame (validate (beforeByte s).rxEsc (beforeByte s).rxOvf
              (buffered (beforeByte s))) (beforeByte s)).2)
            (closeFrame (validate (beforeByte s).rxEsc (beforeByte s).rxOvf
              (buffered (beforeByte s))) (beforeByte s)).1)
        else .fault (.outsideBuffer .rxb)
      else if (beforeByte s).rxEsc = false ∧ d = 0x7D then .next (complete 0 { beforeByte s with rxEsc := true })
      else if (beforeByte s).rxCount.toNat < s.cfg.rxBufSize then
        .next (complete 0 { beforeByte s with
          rxb := Memory.write s.rxb (beforeByte s).rxCount.toNat
            (if (beforeByte s).rxEsc then d ^^^ 0x20 else d)
          rxCount := (beforeByte s).rxCount + 1
          rxEsc := false })
      else .next (complete 0 { beforeByte s with rxOvf := true, rxEsc := false }) := by
  have hcfg : (beforeByte s).cfg = s.cfg := beforeByte_cfg s
  have hrxb : (beforeByte s).rxb = s.rxb := beforeByte_rxb s
  generalize hu : beforeByte s = u at *
  simp only [execRxPush, hu]
  by_cases hr : s.rxReady = true
  · rw [if_pos hr, if_pos hr]
  rw [if_neg hr, if_neg hr, byteIn]
  by_cases hd : d = 0x7E
  · rw [if_pos hd, if_pos (show d = flagByte from hd)]
    by_cases hc : u.rxCount.toNat ≤ s.cfg.rxBufSize
    · rw [if_pos hc, endOfFrame_of_le (by rw [hcfg]; exact hc)]
    · rw [if_neg hc, endOfFrame_of_gt (by rw [hcfg]; omega)]
  rw [if_neg hd, if_neg (show ¬ d = flagByte from hd)]
  by_cases he : u.rxEsc = true
  · rw [if_pos he, if_neg (by simp [he]), dataByte]
    by_cases hc : u.rxCount.toNat < s.cfg.rxBufSize
    · rw [storeByte_of_lt (by simpa [hcfg] using hc), if_pos hc]
      simp [he, hrxb, escMask, outcomeWord]
    · rw [storeByte_of_ge (by simpa [hcfg] using hc), if_neg hc]
      simp [outcomeWord]
  · have he' : u.rxEsc = false := by simpa using he
    rw [if_neg he]
    by_cases hx : d = 0x7D
    · rw [if_pos (show d = escByte from hx), if_pos ⟨he', hx⟩]
      rfl
    · rw [if_neg (show ¬ d = escByte from hx), if_neg (fun h => hx h.2), dataByte]
      by_cases hc : u.rxCount.toNat < s.cfg.rxBufSize
      · rw [storeByte_of_lt (by simpa [hcfg] using hc), if_pos hc]
        simp only [he', hrxb, outcomeWord, Bool.false_eq_true, if_false]
      · rw [storeByte_of_ge (by simpa [hcfg] using hc), if_neg hc]
        simp only [outcomeWord]
        rw [← he']

/-! ## The verdict -/

theorem lengthGood_iff (b : List Byte) :
    LengthGood b ↔ ¬ b.length < 8 ∧ declaredLength b = b.length - 8 := by
  simp only [LengthGood, declaredLength_eq]; omega

theorem packetGood_iff (b : List Byte) :
    PacketGood b ↔ b.getD 0 0 = 0x55 ∧ ¬ (packetType b ≠ 0 ∧ packetType b ≠ 1) := by
  have h0 : packetType b = 0 ↔ (b.getD 1 0).toNat % 8 = 0 := by
    rw [← packetType_toNat, ← BitVec.toNat_inj]; rfl
  have h1 : packetType b = 1 ↔ (b.getD 1 0).toNat % 8 = 1 := by
    rw [← packetType_toNat, ← BitVec.toNat_inj]; rfl
  simp only [PacketGood, ne_eq, h0, h1, and_congr_right_iff]
  intro; omega

/-- EVERYTHING `Validate()` CAN ANSWER (R96), in the words of the claims. -/
theorem validate_cases (esc ovf : Bool) (b : List Byte) :
    (esc = true → validate esc ovf b = .rejected .badPacket) ∧
    (esc = false → ovf = true → validate esc ovf b = .rejected .invalidLength) ∧
    (esc = false → ovf = false → b = [] → validate esc ovf b = .empty) ∧
    (esc = false → ovf = false → b ≠ [] → ¬ LengthGood b → validate esc ovf b = .rejected .invalidLength) ∧
    (esc = false → ovf = false → LengthGood b → ¬ CrcGood b → validate esc ovf b = .rejected .badCrc) ∧
    (esc = false → ovf = false → LengthGood b → CrcGood b → ¬ PacketGood b →
      validate esc ovf b = .rejected .badPacket) ∧
    (esc = false → ovf = false → LengthGood b → CrcGood b → PacketGood b → validate esc ovf b = .accepted) := by
  have tooShort (h : b ≠ []) (h8 : b.length < 8) : validate false false b = .rejected .invalidLength := by
    rw [validate, if_neg (by simp), if_neg (by simp), if_neg (by simpa using h),
      if_pos (show b.length < headerSize from h8)]
  have fromHeader (h8 : ¬ b.length < 8) :
      validate false false b =
        if declaredLength b ≠ b.length - 8 then .rejected .invalidLength
        else if crc8 (b.take 7) ≠ b.getD 7 0 then .rejected .badCrc
        else if crc8 (b.drop 8) ≠ b.getD 5 0 then .rejected .badCrc
        else if b.getD 0 0 ≠ 0x55 then .rejected .badPacket
        else if packetType b ≠ 0 ∧ packetType b ≠ 1 then .rejected .badPacket
        else .accepted := by
    rw [validate, if_neg (by simp), if_neg (by simp), if_neg (by omega),
      if_neg (show ¬ b.length < headerSize from h8)]
    rfl
  refine ⟨?_, ?_, ?_, ?_, ?_, ?_, ?_⟩
  · rintro rfl; rfl
  · rintro rfl rfl; rfl
  · rintro rfl rfl rfl; rfl
  · rintro rfl rfl hb h
    rw [lengthGood_iff] at h
    by_cases h8 : b.length < 8
    · exact tooShort hb h8
    · rw [fromHeader h8, if_pos fun h1 => h ⟨h8, h1⟩]
  · rintro rfl rfl hl hc
    obtain ⟨h8, h1⟩ := (lengthGood_iff b).1 hl
    rw [fromHeader h8, if_neg (not_not.2 h1)]
    by_cases h6 : crc8 (b.take 7) = b.getD 7 0
    · rw [if_neg (not_not.2 h6), if_pos fun h7 => hc ⟨h6, h7⟩]
    · rw [if_pos h6]
  · rintro rfl rfl hl ⟨h6, h7⟩ hp
    obtain ⟨h8, h1⟩ := (lengthGood_iff b).1 hl
    rw [packetGood_iff, not_and, not_not] at hp
    rw [fromHeader h8, if_neg (not_not.2 h1), if_neg (not_not.2 h6), if_neg (not_not.2 h7)]
    by_cases hm : b.getD 0 0 = 0x55
    · rw [if_neg (not_not.2 hm), if_pos (hp hm)]
    · rw [if_pos hm]
  · rintro rfl rfl hl ⟨h6, h7⟩ hp
    obtain ⟨h8, h1⟩ := (lengthGood_iff b).1 hl
    obtain ⟨hm, ht⟩ := (packetGood_iff b).1 hp
    rw [fromHeader h8, if_neg (not_not.2 h1), if_neg (not_not.2 h6), if_neg (not_not.2 h7),
      if_neg (not_not.2 hm), if_neg ht]

end Sys2Proof.Machine
end

