-- ==== Sys2Proof/Laws/Transmit.lean ====
section
/-! SUPPORT. What the transmit commands can do, said once, and the length of escaped bytes. -/

namespace Sys2Proof.Machine

/-- Escaping adds one byte for each byte it escapes. -/
theorem length_escapeAll (l : List Byte) :
    (escapeAll l).length = l.length + l.countP (fun b => b == 0x7E || b == 0x7D) := by
  induction l with
  | nil => rfl
  | cons b l ih =>
    rw [escapeAll_cons, List.length_append, ih, List.countP_cons, List.length_cons]
    obtain ⟨rfl, h⟩ | ⟨rfl, h⟩ | ⟨h1, h2, h⟩ := escapeByte_cases b
    · rw [h]; simp; omega
    · rw [h]; simp; omega
    · have h3 : (b == 0x7E || b == 0x7D) = false := by simpa using ⟨h1, h2⟩
      rw [h, h3]; simp; omega

/-- EVERYTHING `TX_ENCODE` CAN DO (R90). -/
theorem execTxEncode_eq (tid8 : BitVec 8) (type3 : BitVec 3) (val5 : BitVec 5) (s : State) :
    execTxEncode tid8 type3 val5 s =
      if s.txLen.toNat ≤ s.cfg.maxTxPayload.val then
        if (frameToSend tid8 type3 val5 s).length ≤ s.cfg.txfSize then
          .next { s with
            txf := Memory.writeAll s.txf 0 (frameToSend tid8 type3 val5 s)
            txFrameLen := BitVec.ofNat 18 (frameToSend tid8 type3 val5 s).length
            txValid := true
            result := BitVec.ofNat 32 (frameToSend tid8 type3 val5 s).length
            cmdResult := .ok }
        else .fault (.outsideBuffer .txf)
      else .fault (.outsideBuffer .txp) := by
  by_cases h : s.txLen.toNat ≤ s.cfg.maxTxPayload.val
  · rw [if_pos h, execTxEncode, memReadRange_of_le (by simpa using h)]
    change writeFrame (frameToSend tid8 type3 val5 s) s = _
    rw [writeFrame]
    by_cases h2 : (frameToSend tid8 type3 val5 s).length ≤ s.cfg.txfSize
    · rw [if_pos h2, memWriteRange_of_le (by simpa using h2)]
      rfl
    · rw [if_neg h2, memWriteRange, if_neg (by simpa using h2)]
  · rw [if_neg h, execTxEncode, memReadRange, if_neg (by simpa using h)]

/-- EVERYTHING `TXP_WRITE` CAN DO (R88). -/
theorem execTxpWrite_eq (idx16 : BitVec 16) (d8 : BitVec 8) (s : State) :
    execTxpWrite idx16 d8 s =
      if idx16.toNat < s.cfg.maxTxPayload.val then
        .next { s with txp := Memory.write s.txp idx16.toNat d8, result := 0, cmdResult := .ok }
      else .next { s with result := 0, cmdResult := .range } := by
  by_cases h : idx16.toNat < s.cfg.maxTxPayload.val
  · rw [if_pos h, execTxpWrite, if_pos (by simpa [txpIndexInRange] using h), memWrite_of_lt (by simpa using h)]
    rfl
  · rw [if_neg h, execTxpWrite, if_neg (by simpa [txpIndexInRange] using h)]
    rfl

/-- EVERYTHING `TXF_READ` CAN DO (R91). -/
theorem execTxfRead_eq (idx18 : BitVec 18) (s : State) :
    execTxfRead idx18 s =
      if idx18.toNat < s.txFrameLen.toNat then
        if idx18.toNat < s.cfg.txfSize then
          .next { s with result := (byteAt s .txf idx18.toNat).setWidth 32, cmdResult := .ok }
        else .fault (.outsideBuffer .txf)
      else .next { s with result := 0, cmdResult := .range } := by
  by_cases h : idx18.toNat < s.txFrameLen.toNat
  · rw [if_pos h, execTxfRead, if_pos (by simpa [txfIndexInRange] using h)]
    by_cases h2 : idx18.toNat < s.cfg.txfSize
    · rw [if_pos h2, memRead_of_lt (by simpa using h2)]
      rfl
    · rw [if_neg h2, memRead, if_neg (by simpa using h2)]
  · rw [if_neg h, execTxfRead, if_neg (by simpa [txfIndexInRange] using h)]
    rfl

end Sys2Proof.Machine
end

