-- ==== Sys2Proof/Laws/Step.lean ====
section
/-! SUPPORT. What a step and a run can do, said once, and RX_READ. -/

namespace Sys2Proof.Machine

/-- EVERYTHING `RX_READ` CAN DO (R106). -/
theorem execRxRead_eq (idx18 : BitVec 18) (s : State) :
    execRxRead idx18 s =
      if idx18.toNat < s.rxCount.toNat then
        if idx18.toNat < s.cfg.rxBufSize then
          .next { s with result := (byteAt s .rxb idx18.toNat).setWidth 32, cmdResult := .ok }
        else .fault (.outsideBuffer .rxb)
      else .next { s with result := 0, cmdResult := .range } := by
  by_cases h : idx18.toNat < s.rxCount.toNat
  · rw [if_pos h, execRxRead, if_pos (by simpa [rxIndexInRange] using h)]
    by_cases h2 : idx18.toNat < s.cfg.rxBufSize
    · rw [if_pos h2, memRead_of_lt (by simpa using h2)]
      rfl
    · rw [if_neg h2, memRead, if_neg (by simpa using h2)]
  · rw [if_neg h, execRxRead, if_neg (by simpa [rxIndexInRange] using h)]
    rfl

/-- The step on a word that is a command. -/
theorem step_offer_ok {s : State} {w t : Word} {i : Instr} (h : decode w = .ok i) :
    step (s.offer w t) = exec i { s with nowMs := t } := by
  simp only [step, takeCommand_offer, h]

/-- The step on a word that is none. -/
theorem step_offer_error {s : State} {w t : Word} {e : DecodeError} (h : decode w = .error e) :
    step (s.offer w t) = .next { s with nowMs := t, result := 0, cmdResult := .illegal } := by
  simp only [step, takeCommand_offer, h]
  rfl

/-- EVERYTHING A STEP CAN BE: idle, a command, or an ILLEGAL word. -/
theorem step_cases (s : State) :
    (s.commands = [] ∧ step s = .next s) ∨
    (∃ c rest i, s.commands = c :: rest ∧ decode c.word = .ok i ∧
      step s = exec i { s with nowMs := c.nowMs, commands := rest }) ∨
    (∃ c rest e, s.commands = c :: rest ∧ decode c.word = .error e ∧
      step s = .next { s with nowMs := c.nowMs, commands := rest, result := 0, cmdResult := .illegal }) := by
  rcases h : s.commands with _ | ⟨c, rest⟩
  · exact .inl ⟨rfl, by simp only [step, takeCommand_nil h]⟩
  · rcases hd : decode c.word with e | i
    · exact .inr (.inr ⟨c, rest, e, rfl, hd, by simp only [step, takeCommand_cons h, hd]; rfl⟩)
    · exact .inr (.inl ⟨c, rest, i, rfl, hd, by simp only [step, takeCommand_cons h, hd]⟩)

theorem runFor_succ {k : Nat} {s t : State} (h : step s = .next t) : runFor (k + 1) s = runFor k t := by
  simp only [runFor, h]

/-- A run of `k + n` steps is a run of `k` and then one of `n`. -/
theorem runFor_add {k n : Nat} {s t : State} (h : runFor k s = .next t) : runFor (k + n) s = runFor n t := by
  induction k generalizing s with
  | zero => simp only [runFor, Host.Outcome.next.injEq] at h; rw [h, Nat.zero_add]
  | succ k ih =>
    simp only [runFor] at h
    split at h
    · rename_i u hu
      rw [show k + 1 + n = (k + n) + 1 by omega, runFor_succ hu]
      exact ih h
    · simp at h
    · simp at h

end Sys2Proof.Machine
end

