-- ==== Sys2Proof/Laws/Cases.lean ====
section
/-! SUPPORT. If a command answers a next state, then what that state is: one lemma per command with more than one outcome. -/

namespace Sys2Proof.Machine

/-- A push that answers a next state was busy, closed a frame, began an escape, stored a byte, or overflowed. -/
theorem rxPush_next {d : Byte} {s t : State} (h : exec (.rxPush d) s = .next t) :
    (s.rxReady = true ∧ t = cmdError .busy s) ∨
    (s.rxReady = false ∧ d = 0x7E ∧ (beforeByte s).rxCount.toNat ≤ s.cfg.rxBufSize ∧
      ∃ v, validate (beforeByte s).rxEsc (beforeByte s).rxOvf (buffered (beforeByte s)) = v ∧
        t = complete (outcomeWord (closeFrame v (beforeByte s)).2) (closeFrame v (beforeByte s)).1) ∨
    (s.rxReady = false ∧ d ≠ 0x7E ∧ (beforeByte s).rxEsc = false ∧ d = 0x7D ∧
      t = complete 0 { beforeByte s with rxEsc := true }) ∨
    (s.rxReady = false ∧ d ≠ 0x7E ∧ ¬ ((beforeByte s).rxEsc = false ∧ d = 0x7D) ∧
      (beforeByte s).rxCount.toNat < s.cfg.rxBufSize ∧
      t = complete 0 { beforeByte s with
        rxb := Memory.write s.rxb (beforeByte s).rxCount.toNat (if (beforeByte s).rxEsc then d ^^^ 0x20 else d)
        rxCount := (beforeByte s).rxCount + 1
        rxEsc := false }) ∨
    (s.rxReady = false ∧ d ≠ 0x7E ∧ ¬ ((beforeByte s).rxEsc = false ∧ d = 0x7D) ∧
      s.cfg.rxBufSize ≤ (beforeByte s).rxCount.toNat ∧
      t = complete 0 { beforeByte s with rxOvf := true, rxEsc := false }) := by
  rw [show exec (.rxPush d) s = _ from execRxPush_eq d s] at h
  split at h
  · cases h; exact .inl ⟨‹_›, rfl⟩
  have hr : s.rxReady = false := by simpa using ‹¬ s.rxReady = true›
  split at h
  · split at h
    · cases h; exact .inr (.inl ⟨hr, ‹_›, ‹_›, _, rfl, rfl⟩)
    · simp at h
  split at h
  · rename_i h2; cases h; exact .inr (.inr (.inl ⟨hr, ‹_›, h2.1, h2.2, rfl⟩))
  split at h
  · cases h; exact .inr (.inr (.inr (.inl ⟨hr, ‹_›, ‹_›, ‹_›, rfl⟩)))
  · cases h; exact .inr (.inr (.inr (.inr ⟨hr, ‹_›, ‹_›, by omega, rfl⟩)))

theorem rxRead_next {i : BitVec 18} {s t : State} (h : exec (.rxRead i) s = .next t) :
    (i.toNat < s.rxCount.toNat ∧ i.toNat < s.cfg.rxBufSize ∧
      t = { s with result := (byteAt s .rxb i.toNat).setWidth 32, cmdResult := .ok }) ∨
    (s.rxCount.toNat ≤ i.toNat ∧ t = { s with result := 0, cmdResult := .range }) := by
  rw [show exec (.rxRead i) s = _ from execRxRead_eq i s] at h
  split at h
  · split at h
    · cases h; exact .inl ⟨‹_›, ‹_›, rfl⟩
    · simp at h
  · cases h; exact .inr ⟨by omega, rfl⟩

theorem txfRead_next {i : BitVec 18} {s t : State} (h : exec (.txfRead i) s = .next t) :
    (i.toNat < s.txFrameLen.toNat ∧ i.toNat < s.cfg.txfSize ∧
      t = { s with result := (byteAt s .txf i.toNat).setWidth 32, cmdResult := .ok }) ∨
    (s.txFrameLen.toNat ≤ i.toNat ∧ t = { s with result := 0, cmdResult := .range }) := by
  rw [show exec (.txfRead i) s = _ from execTxfRead_eq i s] at h
  split at h
  · split at h
    · cases h; exact .inl ⟨‹_›, ‹_›, rfl⟩
    · simp at h
  · cases h; exact .inr ⟨by omega, rfl⟩

theorem txpWrite_next {i : BitVec 16} {d : Byte} {s t : State} (h : exec (.txpWrite i d) s = .next t) :
    (i.toNat < s.cfg.maxTxPayload.val ∧
      t = { s with txp := Memory.write s.txp i.toNat d, result := 0, cmdResult := .ok }) ∨
    (s.cfg.maxTxPayload.val ≤ i.toNat ∧ t = { s with result := 0, cmdResult := .range }) := by
  rw [show exec (.txpWrite i d) s = _ from execTxpWrite_eq i d s] at h
  split at h
  · cases h; exact .inl ⟨‹_›, rfl⟩
  · cases h; exact .inr ⟨by omega, rfl⟩

theorem txSetLen_next {n : BitVec 16} {s t : State} (h : exec (.txSetLen n) s = .next t) :
    (n.toNat ≤ s.cfg.maxTxPayload.val ∧ t = { s with txLen := n, result := 0, cmdResult := .ok }) ∨
    (s.cfg.maxTxPayload.val < n.toNat ∧ t = { s with result := 0, cmdResult := .range }) := by
  by_cases hn : n.toNat ≤ s.cfg.maxTxPayload.val
  · simp only [exec, execTxSetLen, txLenInRange, hn, decide_true, if_true] at h
    cases h; exact .inl ⟨hn, rfl⟩
  · simp only [exec, execTxSetLen, txLenInRange, hn, decide_false, Bool.false_eq_true, if_false] at h
    cases h; exact .inr ⟨by omega, rfl⟩

theorem txEncode_next {tid8 : BitVec 8} {type3 : BitVec 3} {val5 : BitVec 5} {s t : State}
    (h : exec (.txEncode tid8 type3 val5) s = .next t) :
    s.txLen.toNat ≤ s.cfg.maxTxPayload.val ∧ (frameToSend tid8 type3 val5 s).length ≤ s.cfg.txfSize ∧
      t = { s with
        txf := Memory.writeAll s.txf 0 (frameToSend tid8 type3 val5 s)
        txFrameLen := BitVec.ofNat 18 (frameToSend tid8 type3 val5 s).length
        txValid := true
        result := BitVec.ofNat 32 (frameToSend tid8 type3 val5 s).length
        cmdResult := .ok } := by
  rw [show exec (.txEncode tid8 type3 val5) s = _ from execTxEncode_eq tid8 type3 val5 s] at h
  split at h
  · split at h
    · cases h; exact ⟨‹_›, ‹_›, rfl⟩
    · simp at h
  · simp at h

end Sys2Proof.Machine
end

