-- ==== Sys2Proof/Laws/Crc.lean ====
section
/-! SUPPORT. The algebra of the CRC step: it is linear over exclusive or, no non-zero byte is sent to 0, and the printed table is
the step on each single byte. -/

namespace Sys2Proof.Machine

theorem xor_swap4 (a b c d : Byte) : (a ^^^ b) ^^^ (c ^^^ d) = (a ^^^ c) ^^^ (b ^^^ d) := by
  rw [BitVec.xor_assoc, ← BitVec.xor_assoc b c d, BitVec.xor_comm b c, BitVec.xor_assoc c b d, ← BitVec.xor_assoc]

/-- One shift is linear over exclusive or. -/
theorem crc8Shift_xor (a b : Byte) : crc8Shift (a ^^^ b) = crc8Shift a ^^^ crc8Shift b := by
  have h (c : Byte) : crc8Shift c = (c <<< 1) ^^^ (if c.msb then 0x07 else 0x00) := by
    unfold crc8Shift; split <;> simp
  rw [h, h a, h b, BitVec.shiftLeft_xor_distrib, BitVec.msb_xor, xor_swap4]
  cases a.msb <;> cases b.msb <;> rfl

/-- Any number of shifts is. -/
theorem repeat_crc8Shift_xor (n : Nat) (a b : Byte) :
    Nat.repeat crc8Shift n (a ^^^ b) = Nat.repeat crc8Shift n a ^^^ Nat.repeat crc8Shift n b := by
  induction n with
  | zero => rfl
  | succ n ih => simp only [Nat.repeat, ih, crc8Shift_xor]

/-- One byte of R77 is linear in the register and the byte together. -/
theorem crc8Byte_xor (c b c' b' : Byte) : crc8Byte (c ^^^ c') (b ^^^ b') = crc8Byte c b ^^^ crc8Byte c' b' := by
  simp only [crc8Byte, xor_swap4, repeat_crc8Shift_xor]

/-- Eight shifts send no byte but 0 to 0. -/
theorem repeat_crc8Shift_eq_zero : ∀ b : Byte, Nat.repeat crc8Shift 8 b = 0x00 → b = 0x00 := by decide

theorem crc8Byte_zero : crc8Byte 0x00 0x00 = 0x00 := by decide

/-- The table of R78 is the CRC of each single byte. -/
theorem crc8Lookup_eq : ∀ b : Byte, crc8Lookup b = Nat.repeat crc8Shift 8 b := by decide

/-- One byte by the table is one byte of R77 (R79). -/
theorem crc8TableByte_eq (c b : Byte) : crc8TableByte c b = crc8Byte c b := by
  simp only [crc8TableByte, crc8Byte, crc8Lookup_eq]

/-- One byte of R77 is one-to-one in the register. -/
theorem crc8Byte_inj_left {c c' b : Byte} (h : crc8Byte c b = crc8Byte c' b) : c = c' := by
  have h1 : crc8Byte (c ^^^ c') (b ^^^ b) = 0x00 := by rw [crc8Byte_xor, h, BitVec.xor_self]; rfl
  have h2 := repeat_crc8Shift_eq_zero _ (by simpa [crc8Byte] using h1)
  simpa using BitVec.xor_eq_zero_iff.1 h2

/-- One byte of R77 is one-to-one in the byte. -/
theorem crc8Byte_inj_right {c b b' : Byte} (h : crc8Byte c b = crc8Byte c b') : b = b' := by
  have h1 : crc8Byte (c ^^^ c) (b ^^^ b') = 0x00 := by rw [crc8Byte_xor, h, BitVec.xor_self]; rfl
  have h2 := repeat_crc8Shift_eq_zero _ (by simpa [crc8Byte] using h1)
  simpa using BitVec.xor_eq_zero_iff.1 h2

/-- The rest of a list keeps two different registers different. -/
theorem foldl_crc8Byte_inj {l : List Byte} {c c' : Byte} (h : l.foldl crc8Byte c = l.foldl crc8Byte c') : c = c' := by
  induction l generalizing c c' with
  | nil => exact h
  | cons b l ih => exact crc8Byte_inj_left (ih h)

end Sys2Proof.Machine
end

