-- ==== Sys2Proof/Laws/CrcPolynomial.lean ====
section
/-! SUPPORT. Bytes as polynomials over the two-element field: what one shift of the CRC register does, and the CRC's linearity
over lists. -/

namespace Sys2Proof.Machine

open Polynomial

/-- A byte as a polynomial: bit `k` is the coefficient of `x^k`. -/
noncomputable def bytePoly (c : Byte) : Polynomial (ZMod 2) :=
  (Finset.range 8).sum fun k => if c.getLsbD k then X ^ k else 0

/-- The generator of R77. -/
noncomputable def generator : Polynomial (ZMod 2) := X ^ 8 + X ^ 2 + X + 1

/-- A bit as a coefficient. -/
noncomputable def bitPoly (b : Bool) : Polynomial (ZMod 2) := if b then 1 else 0

theorem two_eq_zero_poly : (2 : Polynomial (ZMod 2)) = 0 := CharTwo.two_eq_zero

/-- The eight terms of a byte. -/
theorem bytePoly_eq (a : Byte) :
    bytePoly a = bitPoly (a.getLsbD 0) + bitPoly (a.getLsbD 1) * X + bitPoly (a.getLsbD 2) * X ^ 2 +
      bitPoly (a.getLsbD 3) * X ^ 3 + bitPoly (a.getLsbD 4) * X ^ 4 + bitPoly (a.getLsbD 5) * X ^ 5 +
      bitPoly (a.getLsbD 6) * X ^ 6 + bitPoly (a.getLsbD 7) * X ^ 7 := by
  have e : ∀ (c : Bool) (k : Nat), (if c = true then (X ^ k : Polynomial (ZMod 2)) else 0) = bitPoly c * X ^ k := by
    intro c k; cases c <;> simp [bitPoly]
  simp only [bytePoly, Finset.sum_range_succ, Finset.sum_range_zero, e]
  ring

/-- Exclusive or is addition. -/
theorem bytePoly_xor (a b : Byte) : bytePoly (a ^^^ b) = bytePoly a + bytePoly b := by
  simp only [bytePoly, ← Finset.sum_add_distrib]
  refine Finset.sum_congr rfl fun k _ => ?_
  rw [BitVec.getLsbD_xor]
  cases a.getLsbD k <;> cases b.getLsbD k <;> simp
  rw [← two_mul, two_eq_zero_poly, zero_mul]

/-- A left shift drops the top term and raises the others. -/
theorem bytePoly_shiftLeft (a : Byte) :
    bytePoly (a <<< 1) = bitPoly (a.getLsbD 0) * X + bitPoly (a.getLsbD 1) * X ^ 2 + bitPoly (a.getLsbD 2) * X ^ 3 +
      bitPoly (a.getLsbD 3) * X ^ 4 + bitPoly (a.getLsbD 4) * X ^ 5 + bitPoly (a.getLsbD 5) * X ^ 6 +
      bitPoly (a.getLsbD 6) * X ^ 7 := by
  have h0 : ∀ a : Byte, (a <<< 1).getLsbD 0 = false := by decide
  have h : ∀ a : Byte, ∀ k : Fin 7, (a <<< 1).getLsbD (k + 1) = a.getLsbD k := by decide
  have h1 := h a 0; have h2 := h a 1; have h3 := h a 2; have h4 := h a 3; have h5 := h a 4; have h6 := h a 5
  have h7 := h a 6
  simp only [Fin.isValue, Fin.coe_ofNat_eq_mod, Nat.reduceMod, Nat.reduceAdd] at h1 h2 h3 h4 h5 h6 h7
  rw [bytePoly_eq, h0, h1, h2, h3, h4, h5, h6, h7]
  simp only [bitPoly, Bool.false_eq_true, if_false]; ring

theorem bytePoly_seven : bytePoly 0x07 = X ^ 2 + X + 1 := by
  have h : ∀ k : Fin 8, (0x07 : Byte).getLsbD k = decide (k.val < 3) := by decide
  have h0 := h 0; have h1 := h 1; have h2 := h 2; have h3 := h 3; have h4 := h 4; have h5 := h 5; have h6 := h 6
  have h7 := h 7
  simp only [Fin.isValue, Fin.coe_ofNat_eq_mod, Nat.reduceMod] at h0 h1 h2 h3 h4 h5 h6 h7
  rw [bytePoly_eq, h0, h1, h2, h3, h4, h5, h6, h7]
  simp [bitPoly]; ring

/-- One shift of the CRC register is a multiplication by `x`, less the generator when the top bit falls out. -/
theorem bytePoly_crc8Shift (a : Byte) : ∃ q, bytePoly a * X = q * generator + bytePoly (crc8Shift a) := by
  refine ⟨bitPoly a.msb, ?_⟩
  rw [crc8Shift, show a.msb = a.getLsbD 7 from BitVec.msb_eq_getLsbD_last a]
  cases h7 : a.getLsbD 7
  · rw [bytePoly_eq, h7, if_neg (by simp), bytePoly_shiftLeft]
    simp only [bitPoly, Bool.false_eq_true, if_false]; ring
  · rw [if_pos rfl, bytePoly_xor, bytePoly_eq a, h7, bytePoly_shiftLeft, bytePoly_seven, generator]
    simp only [bitPoly, if_true]
    linear_combination (-(X ^ 2 + X + 1)) * two_eq_zero_poly

/-- So are `n` shifts. -/
theorem bytePoly_repeat_crc8Shift (n : Nat) (a : Byte) :
    ∃ q, bytePoly a * X ^ n = q * generator + bytePoly (Nat.repeat crc8Shift n a) := by
  induction n with
  | zero => exact ⟨0, by simp [Nat.repeat]⟩
  | succ n ih =>
    obtain ⟨q, h⟩ := ih
    obtain ⟨r, h2⟩ := bytePoly_crc8Shift (Nat.repeat crc8Shift n a)
    refine ⟨q * X + r, ?_⟩
    rw [pow_succ, ← mul_assoc, h]
    simp only [Nat.repeat]
    linear_combination h2

/-- The CRC of two lists, byte-wise combined, from two registers combined. -/
theorem foldl_crc8Byte_xor (a b : List Byte) (h : a.length = b.length) (c d : Byte) :
    (List.zipWith (· ^^^ ·) a b).foldl crc8Byte (c ^^^ d) = a.foldl crc8Byte c ^^^ b.foldl crc8Byte d := by
  induction a generalizing b c d with
  | nil => cases b <;> simp_all
  | cons x a ih =>
    cases b with
    | nil => simp at h
    | cons y b =>
      simp only [List.zipWith_cons_cons, List.foldl_cons, crc8Byte_xor]
      exact ih b (by simpa using h) _ _

end Sys2Proof.Machine
end

