-- ==== Sys2Proof/Laws/DecoderRuns.lean ====
section
/-! SUPPORT. Runs of pushes of escaped bytes: what they leave buffered while they fit, and that they overflow when they do not.
The obligations about whole frames go through these. -/

namespace Sys2Proof.Machine

/-- No push of this run finds its partial frame stale. -/
def Timely (s : State) : List (Byte × Word) → Prop
  | [] => True
  | (_, t) :: rest => ¬ Stale { s with nowMs := t } ∧ inTimeAfter s.rxTimeout.toNat t rest

/-- What no push of a data byte changes. -/
structure Keep (s t : State) : Prop where
  err : t.rxErr = s.rxErr
  code : t.rxErrCode = s.rxErrCode
  discard : t.rxDiscard = s.rxDiscard
  timeout : t.rxTimeout = s.rxTimeout
  cfg : t.cfg = s.cfg
  draws : t.draws = s.draws

theorem keep_refl (s : State) : Keep s s := ⟨rfl, rfl, rfl, rfl, rfl, rfl⟩

theorem keep_trans {s t u : State} (h : Keep s t) (g : Keep t u) : Keep s u :=
  ⟨g.1.trans h.1, g.2.trans h.2, g.3.trans h.3, g.4.trans h.4, g.5.trans h.5, g.6.trans h.6⟩

/-- From IDLE nothing is asked of the first byte's time. -/
theorem timely_of_idle {s : State} {xs : List (Byte × Word)} (h : Idle s) (hx : inTime s.rxTimeout.toNat xs) :
    Timely s xs := by
  cases xs with
  | nil => trivial
  | cons x xs => exact ⟨Idle.not_stale (s := { s with nowMs := x.2 }) h, hx⟩

/-- After a push, the rest of the run is in time. -/
theorem timely_after {s u : State} {xs : List (Byte × Word)} (hx : inTimeAfter s.rxTimeout.toNat u.rxLastMs xs)
    (h : u.rxTimeout = s.rxTimeout) : Timely u xs := by
  cases xs with
  | nil => trivial
  | cons x xs =>
    refine ⟨fun hs => ?_, h ▸ hx.2⟩
    have h1 := hx.1
    have h2 := hs.2
    rw [← h] at h1
    simp only at h2
    omega

/-- The step on the first push of a run; `decode (encode i) = .ok i` is a hypothesis, since the round trip is an obligation. -/
theorem step_push (hd : ∀ i, decode (encode i) = .ok i) {s : State} {b : Byte} {t : Word} {xs : List (Byte × Word)}
    {rest : List PortWrite} (h : s.commands = pushesFor ((b, t) :: xs) ++ rest) :
    step s = exec (.rxPush b) { s with nowMs := t, commands := pushesFor xs ++ rest } := by
  have hc : s.commands = { word := encode (.rxPush b), nowMs := t } :: (pushesFor xs ++ rest) := h
  simp only [step, takeCommand_cons hc, hd]

theorem toNat_succ_of_lt {s : State} (h : s.rxCount.toNat < s.cfg.rxBufSize) :
    (s.rxCount + 1).toNat = s.rxCount.toNat + 1 := by
  have := rxBufSize_range s.cfg
  have : (1 : BitVec 17).toNat = 1 := rfl
  rw [BitVec.toNat_add]; omega

/-- One data byte: it is stored, or it overflows. -/
theorem push_data {s : State} {d : Byte} (hr : s.rxReady = false) (hs : ¬ Stale s) (h1 : d ≠ 0x7E)
    (h2 : s.rxEsc = true ∨ d ≠ 0x7D) :
    ∃ t, exec (.rxPush d) s = .next t ∧ t.rxReady = false ∧ t.rxEsc = false ∧ t.rxLastMs = s.nowMs ∧
      t.commands = s.commands ∧ Keep s t ∧
      (s.rxCount.toNat < s.cfg.rxBufSize → t.rxOvf = s.rxOvf ∧ t.rxCount.toNat = s.rxCount.toNat + 1 ∧
        buffered t = buffered s ++ [if s.rxEsc then d ^^^ 0x20 else d]) ∧
      (s.cfg.rxBufSize ≤ s.rxCount.toNat → t.rxOvf = true ∧ t.rxCount = s.rxCount) := by
  have hc : ¬ (s.rxEsc = false ∧ d = 0x7D) := by
    rintro ⟨h3, h4⟩; rcases h2 with h2 | h2 <;> simp_all
  by_cases hlt : s.rxCount.toNat < s.cfg.rxBufSize
  · have h := execRxPush_eq d s
    rw [if_neg (by simp [hr]), if_neg h1, beforeByte_of_not_stale hs, if_neg hc, if_pos hlt] at h
    refine ⟨_, h, hr, rfl, rfl, rfl, ⟨rfl, rfl, rfl, rfl, rfl, rfl⟩, fun _ => ⟨rfl, toNat_succ_of_lt hlt, ?_⟩,
      fun h => absurd hlt (by omega)⟩
    have hw := byteAt_setMem_write s .rxb s.rxCount.toNat
    change bytesAt _ _ (s.rxCount + 1).toNat = _
    rw [toNat_succ_of_lt hlt, bytesAt_succ]
    congr 1
    · refine List.map_congr_left fun i hi => ?_
      have := hw i (if s.rxEsc then d ^^^ 0x20 else d)
      rw [if_neg (Nat.ne_of_lt (List.mem_range.1 hi))] at this
      exact this
    · have := hw s.rxCount.toNat (if s.rxEsc then d ^^^ 0x20 else d)
      rw [if_pos rfl] at this
      exact congrArg (fun x => [x]) this
  · have h := execRxPush_eq d s
    rw [if_neg (by simp [hr]), if_neg h1, beforeByte_of_not_stale hs, if_neg hc, if_neg hlt] at h
    exact ⟨_, h, hr, rfl, rfl, rfl, ⟨rfl, rfl, rfl, rfl, rfl, rfl⟩, fun h => absurd h hlt, fun _ => ⟨rfl, rfl⟩⟩

/-- The escaped form of one byte: the byte is stored, or it overflows. -/
theorem run_escapeByte (hd : ∀ i, decode (encode i) = .ok i) {s : State} {b : Byte} {xs ys : List (Byte × Word)}
    {rest : List PortWrite} (hx : xs.map Prod.fst = escapeByte b) (hr : s.rxReady = false) (he : s.rxEsc = false)
    (ht : Timely s (xs ++ ys)) (hc : s.commands = pushesFor (xs ++ ys) ++ rest) :
    ∃ t, runFor xs.length s = .next t ∧ t.rxReady = false ∧ t.rxEsc = false ∧ Timely t ys ∧
      t.commands = pushesFor ys ++ rest ∧ Keep s t ∧
      (s.rxCount.toNat < s.cfg.rxBufSize → t.rxOvf = s.rxOvf ∧ t.rxCount.toNat = s.rxCount.toNat + 1 ∧
        buffered t = buffered s ++ [b]) ∧
      (s.cfg.rxBufSize ≤ s.rxCount.toNat → t.rxOvf = true ∧ t.rxCount = s.rxCount) := by
  have escaped (d : Byte) (hd7 : d ≠ 0x7E) (hb : escapeByte b = [0x7D, d]) (hbd : d ^^^ 0x20 = b) :
      ∃ t, runFor xs.length s = .next t ∧ t.rxReady = false ∧ t.rxEsc = false ∧ Timely t ys ∧
        t.commands = pushesFor ys ++ rest ∧ Keep s t ∧
        (s.rxCount.toNat < s.cfg.rxBufSize → t.rxOvf = s.rxOvf ∧ t.rxCount.toNat = s.rxCount.toNat + 1 ∧
          buffered t = buffered s ++ [b]) ∧
        (s.cfg.rxBufSize ≤ s.rxCount.toNat → t.rxOvf = true ∧ t.rxCount = s.rxCount) := by
    obtain ⟨⟨x1, t1⟩, ⟨x2, t2⟩, rfl⟩ : ∃ a b, xs = [a, b] :=
      List.length_eq_two.1 (by simpa [hb] using congrArg List.length hx)
    rw [hb] at hx
    simp only [List.map_cons, List.map_nil, List.cons.injEq, and_true] at hx
    obtain ⟨rfl, rfl⟩ := hx
    have h1 := step_push hd hc
    have hns : ¬ Stale { s with nowMs := t1, commands := pushesFor ((x2, t2) :: ys) ++ rest } := ht.1
    have e1 := execRxPush_eq 0x7D { s with nowMs := t1, commands := pushesFor ((x2, t2) :: ys) ++ rest }
    rw [if_neg (by simp [hr]), if_neg (by decide), beforeByte_of_not_stale hns, if_pos ⟨he, rfl⟩] at e1
    have h1 := h1.trans e1
    generalize hu : (complete 0 _ : State) = u at h1
    have hk : Keep s u := by subst hu; exact ⟨rfl, rfl, rfl, rfl, rfl, rfl⟩
    have hu' : u.rxReady = false ∧ u.rxEsc = true ∧ u.rxOvf = s.rxOvf ∧ u.rxCount = s.rxCount ∧ u.rxLastMs = t1 ∧
        buffered u = buffered s ∧ u.commands = pushesFor ((x2, t2) :: ys) ++ rest := by
      subst hu; exact ⟨hr, rfl, rfl, rfl, rfl, rfl, rfl⟩
    obtain ⟨u1, u2, u3, u4, u5, u6, u7⟩ := hu'
    have tm : Timely u ((x2, t2) :: ys) := timely_after (s := s) (by rw [u5]; exact ht.2) hk.timeout
    obtain ⟨t, k1, k2, k3, k4, k5, k6, k7, k8⟩ :=
      push_data (s := { u with nowMs := t2, commands := pushesFor ys ++ rest }) (d := x2) u1 tm.1 hd7 (.inl u2)
    refine ⟨t, ?_, k2, k3, timely_after (s := u) (by rw [k4]; exact tm.2) k6.timeout, k5,
      keep_trans hk ⟨k6.1, k6.2, k6.3, k6.4, k6.5, k6.6⟩, fun hlt => ?_, fun hge => ?_⟩
    · change runFor 2 s = _
      rw [runFor_succ h1, runFor_succ ((step_push hd u7).trans k1)]; rfl
    · obtain ⟨j1, j2, j3⟩ := k7 (by change u.rxCount.toNat < u.cfg.rxBufSize; rw [u4, hk.cfg]; exact hlt)
      refine ⟨j1.trans u3, j2.trans (by change u.rxCount.toNat + 1 = _; rw [u4]), ?_⟩
      rw [j3]
      change buffered u ++ [if u.rxEsc then x2 ^^^ 0x20 else x2] = _
      rw [u6, u2, ← hbd]; rfl
    · obtain ⟨j1, j2⟩ := k8 (by change u.cfg.rxBufSize ≤ u.rxCount.toNat; rw [u4, hk.cfg]; exact hge)
      exact ⟨j1, j2.trans u4⟩
  obtain ⟨hb, h⟩ | ⟨hb, h⟩ | ⟨h1, h2, h⟩ := escapeByte_cases b
  · exact escaped 0x5E (by decide) h (by rw [hb]; decide)
  · exact escaped 0x5D (by decide) h (by rw [hb]; decide)
  · obtain ⟨⟨x1, t1⟩, rfl⟩ : ∃ a, xs = [a] :=
      List.length_eq_one_iff.1 (by simpa [h] using congrArg List.length hx)
    rw [h] at hx
    simp only [List.map_cons, List.map_nil, List.cons.injEq, and_true] at hx
    subst hx
    obtain ⟨t, k1, k2, k3, k4, k5, k6, k7, k8⟩ :=
      push_data (s := { s with nowMs := t1, commands := pushesFor ys ++ rest }) (d := x1) hr ht.1 h1 (.inr h2)
    refine ⟨t, ?_, k2, k3, timely_after (s := s) (by rw [k4]; exact ht.2) k6.timeout, k5,
      ⟨k6.1, k6.2, k6.3, k6.4, k6.5, k6.6⟩, fun hlt => ?_, k8⟩
    · change runFor 1 s = _
      rw [runFor_succ ((step_push hd hc).trans k1)]; rfl
    · obtain ⟨j1, j2, j3⟩ := k7 hlt
      refine ⟨j1, j2, ?_⟩
      rw [j3]
      change buffered s ++ [if s.rxEsc then x1 ^^^ 0x20 else x1] = _
      rw [he]; rfl

/-- The escaped form of bytes that fit leaves them buffered. -/
theorem run_escapeAll (hd : ∀ i, decode (encode i) = .ok i) (l : List Byte) :
    ∀ {s : State} {xs ys : List (Byte × Word)} {rest : List PortWrite}, xs.map Prod.fst = escapeAll l →
      s.rxReady = false → s.rxEsc = false → Timely s (xs ++ ys) → s.commands = pushesFor (xs ++ ys) ++ rest →
      s.rxCount.toNat + l.length ≤ s.cfg.rxBufSize →
      ∃ t, runFor xs.length s = .next t ∧ t.rxReady = false ∧ t.rxEsc = false ∧ t.rxOvf = s.rxOvf ∧
        t.rxCount.toNat = s.rxCount.toNat + l.length ∧ buffered t = buffered s ++ l ∧ Timely t ys ∧
        t.commands = pushesFor ys ++ rest ∧ Keep s t := by
  induction l with
  | nil =>
    intro s xs ys rest hx hr he ht hc _
    obtain rfl : xs = [] := by simpa using hx
    exact ⟨s, rfl, hr, he, rfl, rfl, (List.append_nil _).symm, ht, hc, keep_refl s⟩
  | cons b l ih =>
    intro s xs ys rest hx hr he ht hc hlen
    rw [escapeAll_cons] at hx
    obtain ⟨x, z, rfl, hx, hz⟩ := List.map_eq_append_iff.1 hx
    rw [List.append_assoc] at ht hc
    rw [List.length_cons] at hlen
    obtain ⟨t, k1, k2, k3, k4, k5, k6, k7, -⟩ := run_escapeByte hd hx hr he ht hc
    obtain ⟨k7, k8, k9⟩ := k7 (by omega)
    obtain ⟨u, j1, j2, j3, j4, j5, j6, j7, j8, j9⟩ := ih hz k2 k3 k4 k5 (by rw [k8, k6.cfg]; omega)
    refine ⟨u, ?_, j2, j3, j4.trans k7, ?_, ?_, j7, j8, keep_trans k6 j9⟩
    · rw [List.length_append, runFor_add k1, j1]
    · rw [j5, k8, List.length_cons]; omega
    · rw [j6, k9, List.append_assoc]; rfl

/-- The escaped form of bytes that do not fit leaves the overflow flag set. -/
theorem run_escapeAll_overflow (hd : ∀ i, decode (encode i) = .ok i) (l : List Byte) :
    ∀ {s : State} {xs ys : List (Byte × Word)} {rest : List PortWrite}, xs.map Prod.fst = escapeAll l →
      s.rxReady = false → s.rxEsc = false → Timely s (xs ++ ys) → s.commands = pushesFor (xs ++ ys) ++ rest →
      s.rxCount.toNat ≤ s.cfg.rxBufSize → (s.rxOvf = true ∨ s.cfg.rxBufSize < s.rxCount.toNat + l.length) →
      ∃ t, runFor xs.length s = .next t ∧ t.rxReady = false ∧ t.rxEsc = false ∧ t.rxOvf = true ∧
        t.rxCount.toNat ≤ s.cfg.rxBufSize ∧ Timely t ys ∧ t.commands = pushesFor ys ++ rest ∧ Keep s t := by
  induction l with
  | nil =>
    intro s xs ys rest hx hr he ht hc hle ho
    obtain rfl : xs = [] := by simpa using hx
    exact ⟨s, rfl, hr, he, ho.resolve_right (by rw [List.length_nil]; omega), hle, ht, hc, keep_refl s⟩
  | cons b l ih =>
    intro s xs ys rest hx hr he ht hc hle ho
    rw [escapeAll_cons] at hx
    obtain ⟨x, z, rfl, hx, hz⟩ := List.map_eq_append_iff.1 hx
    rw [List.append_assoc] at ht hc
    rw [List.length_cons] at ho
    obtain ⟨t, k1, k2, k3, k4, k5, k6, k7, k8⟩ := run_escapeByte hd hx hr he ht hc
    have hcount : t.rxCount.toNat ≤ s.cfg.rxBufSize ∧
        (t.rxOvf = true ∨ s.cfg.rxBufSize < t.rxCount.toNat + l.length) := by
      by_cases hlt : s.rxCount.toNat < s.cfg.rxBufSize
      · obtain ⟨i1, i2, -⟩ := k7 hlt
        rw [i1, i2]
        exact ⟨by omega, ho.imp id fun h => by omega⟩
      · obtain ⟨i1, i2⟩ := k8 (by omega)
        rw [i2]
        exact ⟨hle, .inl i1⟩
    rw [← k6.cfg] at hcount
    obtain ⟨u, j1, j2, j3, j4, j5, j7, j8, j9⟩ := ih hz k2 k3 k4 k5 hcount.1 hcount.2
    refine ⟨u, ?_, j2, j3, j4, k6.cfg ▸ j5, j7, j8, keep_trans k6 j9⟩
    rw [List.length_append, runFor_add k1, j1]

end Sys2Proof.Machine
end

