-- ==== Sys2Proof/Laws/Invariant.lean ====
section
/-! SUPPORT. The invariant looks only at some fields: two lemmas that carry it from one state to another. -/

namespace Sys2Proof.Machine

theorem cmdCode_le (c : CmdResult) : (cmdCode c).toNat ≤ 3 := by cases c <;> decide

theorem mem_congr {s t : State} (h1 : t.rxb = s.rxb) (h2 : t.txp = s.txp) (h3 : t.txf = s.txf) (b : BufferId) :
    t.mem b = s.mem b := by cases b <;> simp [State.mem, h1, h2, h3]

theorem buffered_eq_nil {s : State} : buffered s = [] ↔ s.rxCount = 0 := by
  rw [← List.length_eq_zero_iff, buffered, length_bytesAt, ← BitVec.toNat_inj]; rfl

/-- A state with the same fields but for `rx_discard`, `rx_last_ms`, `rx_timeout`, `crc_acc`, `result`, `cmd_result`, the
time and the port keeps the invariant. -/
theorem inv_congr {s t : State} (h : Inv s) (h1 : t.rxCount = s.rxCount) (h2 : t.rxEsc = s.rxEsc)
    (h3 : t.rxOvf = s.rxOvf) (h4 : t.rxReady = s.rxReady) (h5 : t.rxErr = s.rxErr) (h6 : t.rxErrCode = s.rxErrCode)
    (h7 : t.txLen = s.txLen) (h8 : t.txFrameLen = s.txFrameLen) (h9 : t.txValid = s.txValid) (h10 : t.rxb = s.rxb)
    (h11 : t.txp = s.txp) (h12 : t.txf = s.txf) (h13 : t.cfg = s.cfg) (h14 : t.draws = s.draws) : Inv t := by
  have hm := mem_congr h10 h11 h12
  have hb : ∀ b j, byteAt t b j = byteAt s b j := fun b j => byteAt_congr (hm b) h14 j
  have hbuf : buffered t = buffered s := by rw [buffered, buffered, h1]; exact bytesAt_congr (hm _) h14 _
  constructor
  · rw [h1, h13]; exact h.countRange
  · rw [h7, h13]; exact h.lenRange
  · rw [h8, h13]; exact h.frameRange
  · rw [h4, h2, h3, h1, hb, hb, hbuf]; exact h.held
  · rw [h3, h1, h13]; exact h.overflow
  · rw [h5, h6]; exact h.errorCode
  · rw [h9, h8]; exact h.frameBuilt
  · exact cmdCode_le _
  · intro b; rw [BufferForm, hm, h13]; exact h.bufferForm b
  · rw [WrittenBelow, h1, hm]; exact h.rxWritten
  · rw [WrittenBelow, h8, hm]; exact h.txWritten

/-- A state with nothing buffered and the same transmit side keeps the invariant. -/
theorem inv_empty {s t : State} (h : Inv s) (h1 : t.rxCount = 0) (h3 : t.rxOvf = false) (h4 : t.rxReady = false)
    (h5 : t.rxErr = false ↔ t.rxErrCode = none) (h7 : t.txLen = s.txLen) (h8 : t.txFrameLen = s.txFrameLen)
    (h9 : t.txValid = s.txValid) (h10 : t.rxb = s.rxb) (h11 : t.txp = s.txp) (h12 : t.txf = s.txf)
    (h13 : t.cfg = s.cfg) : Inv t := by
  have hm := mem_congr h10 h11 h12
  constructor
  · rw [h1]; simp
  · rw [h7, h13]; exact h.lenRange
  · rw [h8, h13]; exact h.frameRange
  · simp [h4]
  · simp [h3]
  · exact h5
  · rw [h9, h8]; exact h.frameBuilt
  · exact cmdCode_le _
  · intro b; rw [BufferForm, hm, h13]; exact h.bufferForm b
  · rw [WrittenBelow, h1]; intro i hi; simp at hi
  · rw [WrittenBelow, h8, hm]; exact h.txWritten

/-- The timeout check and the recording of the byte's time keep the invariant. -/
theorem inv_beforeByte {s : State} (h : Inv s) : Inv (beforeByte s) := by
  by_cases hs : Stale s
  · rw [beforeByte_of_stale hs]
    apply inv_empty h <;> first | rfl | exact hs.1.1 | exact h.errorCode
  · rw [beforeByte_of_not_stale hs]
    apply inv_congr h <;> rfl

end Sys2Proof.Machine
end

