-- ==== Sys2Proof/Laws/PerInstr.lean ====
section
/-! SUPPORT. Per instruction: the word of each command is in the row of its mnemonic in the opcode map of R66. -/

/-- The command's word shows the match bits of a row of its own mnemonic under that row's mask (R66). -/
def Sys2Proof.Laws.InRow.Statement (i : Sys2Proof.Instr) : Prop :=
  ∃ r ∈ Sys2Proof.opcodeTable, r.mnemonic = i.mnemonic ∧ Sys2Proof.encode i &&& r.mask = r.matchBits

/-- Row `k` of the opcode map is the row of a command when its mnemonic and the command's word say so. -/
theorem Sys2Proof.Laws.InRow.of_row {i : Sys2Proof.Instr} {r : Sys2Proof.OpcodeRow} (k : Nat)
    (hr : Sys2Proof.opcodeTable[k]? = some r) (hm : r.mnemonic = i.mnemonic)
    (hw : ∀ j, j < 32 → (Sys2Proof.encode i &&& r.mask).getLsbD j = r.matchBits.getLsbD j) :
    Sys2Proof.Laws.InRow.Statement i :=
  ⟨r, List.mem_of_getElem? hr, hm, BitVec.eq_of_getLsbD_eq fun j hj => hw j hj⟩

theorem Sys2Proof.Laws.InRow.nop : Sys2Proof.Laws.InRow.Statement .nop := by
  refine Sys2Proof.Laws.InRow.of_row 0 rfl rfl fun j hj => ?_
  interval_cases j <;> rfl

theorem Sys2Proof.Laws.InRow.rxPush (d8 : BitVec 8) : Sys2Proof.Laws.InRow.Statement (.rxPush d8) := by
  refine Sys2Proof.Laws.InRow.of_row 1 rfl rfl fun j hj => ?_
  simp only [Sys2Proof.encode, BitVec.getLsbD_and, BitVec.getLsbD_append]
  interval_cases j <;> simp

theorem Sys2Proof.Laws.InRow.rxPoll : Sys2Proof.Laws.InRow.Statement .rxPoll := by
  refine Sys2Proof.Laws.InRow.of_row 2 rfl rfl fun j hj => ?_
  interval_cases j <;> rfl

theorem Sys2Proof.Laws.InRow.rxRelease : Sys2Proof.Laws.InRow.Statement .rxRelease := by
  refine Sys2Proof.Laws.InRow.of_row 3 rfl rfl fun j hj => ?_
  interval_cases j <;> rfl

theorem Sys2Proof.Laws.InRow.rxRead (idx18 : BitVec 18) : Sys2Proof.Laws.InRow.Statement (.rxRead idx18) := by
  refine Sys2Proof.Laws.InRow.of_row 4 rfl rfl fun j hj => ?_
  simp only [Sys2Proof.encode, BitVec.getLsbD_and, BitVec.getLsbD_append]
  interval_cases j <;> simp

theorem Sys2Proof.Laws.InRow.txpWrite (idx16 : BitVec 16) (d8 : BitVec 8) : Sys2Proof.Laws.InRow.Statement (.txpWrite idx16 d8) := by
  refine Sys2Proof.Laws.InRow.of_row 5 rfl rfl fun j hj => ?_
  simp only [Sys2Proof.encode, BitVec.getLsbD_and, BitVec.getLsbD_append]
  interval_cases j <;> simp

theorem Sys2Proof.Laws.InRow.txSetLen (len16 : BitVec 16) : Sys2Proof.Laws.InRow.Statement (.txSetLen len16) := by
  refine Sys2Proof.Laws.InRow.of_row 6 rfl rfl fun j hj => ?_
  simp only [Sys2Proof.encode, BitVec.getLsbD_and, BitVec.getLsbD_append]
  interval_cases j <;> simp

theorem Sys2Proof.Laws.InRow.txEncode (tid8 : BitVec 8) (type3 : BitVec 3) (val5 : BitVec 5) : Sys2Proof.Laws.InRow.Statement (.txEncode tid8 type3 val5) := by
  refine Sys2Proof.Laws.InRow.of_row 7 rfl rfl fun j hj => ?_
  simp only [Sys2Proof.encode, BitVec.getLsbD_and, BitVec.getLsbD_append]
  interval_cases j <;> simp

theorem Sys2Proof.Laws.InRow.txfRead (idx18 : BitVec 18) : Sys2Proof.Laws.InRow.Statement (.txfRead idx18) := by
  refine Sys2Proof.Laws.InRow.of_row 8 rfl rfl fun j hj => ?_
  simp only [Sys2Proof.encode, BitVec.getLsbD_and, BitVec.getLsbD_append]
  interval_cases j <;> simp

theorem Sys2Proof.Laws.InRow.crc8Clear : Sys2Proof.Laws.InRow.Statement .crc8Clear := by
  refine Sys2Proof.Laws.InRow.of_row 9 rfl rfl fun j hj => ?_
  interval_cases j <;> rfl

theorem Sys2Proof.Laws.InRow.crc8Update (d8 : BitVec 8) : Sys2Proof.Laws.InRow.Statement (.crc8Update d8) := by
  refine Sys2Proof.Laws.InRow.of_row 10 rfl rfl fun j hj => ?_
  simp only [Sys2Proof.encode, BitVec.getLsbD_and, BitVec.getLsbD_append]
  interval_cases j <;> simp

theorem Sys2Proof.Laws.InRow.setTimeout (imm24 : BitVec 24) : Sys2Proof.Laws.InRow.Statement (.setTimeout imm24) := by
  refine Sys2Proof.Laws.InRow.of_row 11 rfl rfl fun j hj => ?_
  simp only [Sys2Proof.encode, BitVec.getLsbD_and, BitVec.getLsbD_append]
  interval_cases j <;> simp

theorem Sys2Proof.Laws.InRow.softReset : Sys2Proof.Laws.InRow.Statement .softReset := by
  refine Sys2Proof.Laws.InRow.of_row 12 rfl rfl fun j hj => ?_
  interval_cases j <;> rfl
end

