-- ==== Sys2Proof/Tests/Slice0.lean ====
section
/-! SUPPORT. Tests and witnesses. The expected results are those of spec/95_test_vectors.md (the vector is named in each
docstring) or worked out by hand from the rule named. The witnesses show that the hypotheses of each statement can be met
together, at the ends of their ranges. -/

open Sys2Proof Sys2Proof.Machine

/-! ## Helpers -/

/-- A buffer in which these bytes have been written from index 0 on. -/
def Sys2Proof.Tests.listed (bs : List Byte) : Memory := Memory.writeAll [] 0 bs

/-- After reset, with these bytes received and not yet closed. -/
def Sys2Proof.Tests.receiving (bs : List Byte) : State :=
  { State.reset with rxCount := BitVec.ofNat 17 bs.length, rxb := Sys2Proof.Tests.listed bs }

/-- After reset, with these bytes held as an accepted frame. -/
def Sys2Proof.Tests.holding (bs : List Byte) : State := { Sys2Proof.Tests.receiving bs with rxReady := true }

/-- After reset, with these payload bytes written and their number set. -/
def Sys2Proof.Tests.sending (bs : List Byte) : State :=
  { State.reset with txLen := BitVec.ofNat 16 bs.length, txp := Sys2Proof.Tests.listed bs }

/-- After reset, with this frame built. -/
def Sys2Proof.Tests.built (bs : List Byte) : State :=
  { State.reset with txFrameLen := BitVec.ofNat 18 bs.length, txValid := true, txf := Sys2Proof.Tests.listed bs }

/-- The smallest receive buffer, `RX_BUF_SIZE = 8` (vectors X27, X28). -/
def Sys2Proof.Tests.small (s : State) : State := { s with cfg := { s.cfg with rxPayloadMax := 0 } }

/-- One step on the word `w` at time `t`, and what `f` sees of the state after it. -/
def Sys2Proof.Tests.after {α : Type} (s : State) (w t : Word) (f : State → α) : Option α :=
  match step (s.offer w t) with
  | .next u => some (f u)
  | .fault _ => none
  | .refused _ => none

/-- `RESULT` and `STATUS`. -/
def Sys2Proof.Tests.seen (s : State) : Word × Word := (readPort s 0x04, readPort s 0x00)

/-- The header of vector E1: an ACK with transaction 5. -/
def Sys2Proof.Tests.e1 : List Byte := [0x55, 0x00, 0x05, 0x00, 0x00, 0x00, 0x00, 0xD1]

/-- The header and payload of vector E5. -/
def Sys2Proof.Tests.e5 : List Byte := [0x55, 0x01, 0x7D, 0x01, 0x00, 0x5F, 0x00, 0xA6, 0xAA]

namespace Sys2Proof.Tests

-- One theorem after another: many short kernel evaluations at once take much memory.
set_option Elab.async false

/-! ## The check on statements -/

theorem test_wellFormed_accepts : Asm.wellFormed ⟨"TX_ENCODE", [255, 7, 31]⟩ = true := by decide
theorem test_wellFormed_unknown_mnemonic : Asm.wellFormed ⟨"TX_SEND", []⟩ = false := by decide
theorem test_wellFormed_too_many : Asm.wellFormed ⟨"RX_POLL", [0]⟩ = false := by decide
theorem test_wellFormed_too_few : Asm.wellFormed ⟨"TXP_WRITE", [0]⟩ = false := by decide
theorem test_wellFormed_too_wide : Asm.wellFormed ⟨"TX_ENCODE", [255, 8, 31]⟩ = false := by decide

/-! ## Decoding: words written out from R64 and R65, and the words of the vectors -/

theorem test_decode_nop : decodeTableWord 32 0x00000000 = some .nop := by decide
theorem test_decode_rxPush : decodeTableWord 32 0x0000D201 = some (.rxPush 0xD2) := by decide
theorem test_decode_rxPoll : decodeTableWord 32 0x00000002 = some .rxPoll := by decide
theorem test_decode_rxRelease : decodeTableWord 32 0x00000003 = some .rxRelease := by decide
/-- R64, format I: index 9 in bits 31..14. -/
theorem test_decode_rxRead : decodeTableWord 32 0b00000000000000100100000000000100 = some (.rxRead 9) := by decide
/-- R64, format W: index 3 in bits 31..16, byte 0x7E in bits 15..8. -/
theorem test_decode_txpWrite : decodeTableWord 32 0b00000000000000110111111000000101 = some (.txpWrite 3 0x7E) := by
  decide
/-- TX_SETLEN 257. -/
theorem test_decode_txSetLen : decodeTableWord 32 0x01010006 = some (.txSetLen 257) := by decide
/-- R64, format H, vector E3: value 31 in bits 23..19, type 1 in bits 18..16, tid 0xFF in bits 15..8. -/
theorem test_decode_txEncode : decodeTableWord 32 0b00000000111110011111111100000111 = some (.txEncode 0xFF 1 31) := by
  decide
theorem test_decode_txfRead : decodeTableWord 32 0x00028008 = some (.txfRead 10) := by decide
theorem test_decode_crc8Clear : decodeTableWord 32 0x00000009 = some .crc8Clear := by decide
theorem test_decode_crc8Update : decodeTableWord 32 0x0000550A = some (.crc8Update 0x55) := by decide
/-- R64, format T: 250 in bits 31..8. -/
theorem test_decode_setTimeout : decodeTableWord 32 0b00000000000000001111101000001011 = some (.setTimeout 250) := by
  decide
theorem test_decode_softReset : decodeTableWord 32 0x0000000C = some .softReset := by decide
/-- Vector K4. -/
theorem test_decode_reserved_opcode : decode 0x0000000D = .error (.reservedOpcode 0xD) := rfl
/-- The must-be-zero bits of RX_PUSH, vector T19. -/
theorem test_decode_must_be_zero : decode 0x00010001 = .error (.mustBeZero .B) := rfl
/-- More than 32 bits are no command. -/
theorem test_decode_too_long : decodeTableWord 40 0x00000000 = none := by decide

/-! ## CRC8, escaping, the frame -/

/-- R78, the first and last row of the printed table. -/
theorem test_crc8_table : crc8Lookup 0x01 = 0x07 ∧ crc8Lookup 0x80 = 0x89 ∧ crc8Lookup 0xFF = 0xF3 := by decide
/-- Vector E2's payload and the bytes 0 to 6 of its header. -/
theorem test_crc8_lists :
    crc8 [0x01, 0x7E, 0x7D, 0x02] = 0x18 ∧ crc8 [0x55, 0x01, 0x12, 0x04, 0x00, 0x18, 0x00] = 0x44 := by
  decide +kernel
/-- Vector E10: what already looks escaped. -/
theorem test_escape : escapeAll [0x7D, 0x5D, 0x5E, 0x20] = [0x7D, 0x5D, 0x5D, 0x5E, 0x20] := by decide
/-- Vector E2. -/
theorem test_buildFrame :
    buildFrame (hb1 1 0) 0x12 [0x01, 0x7E, 0x7D, 0x02] =
      [0x7E, 0x55, 0x01, 0x12, 0x04, 0x00, 0x18, 0x00, 0x44, 0x01, 0x7D, 0x5E, 0x7D, 0x5D, 0x02, 0x7E] := by
  decide +kernel

/-! ## Memory -/

theorem test_memory_order : Memory.wf (Memory.write (Memory.write [] 5 0x01) 2 0x02) = true := by decide
theorem test_memory_refuses_disorder : Memory.wf [(5, 0x01), (2, 0x02)] = false := by decide

/-! ## One step of each command -/

/-- Vector X1, its last byte: the frame is accepted, and its header is in RX_INFO and RX_CRC. -/
theorem test_rxPush_accepts :
    after (receiving e1) 0x00007E01 0 (fun s => (seen s, readPort s 0x0C, readPort s 0x10)) =
      some ((1, 0x00000001), 0x00000500, 0xD1000055) := by decide +kernel
/-- Vector X27, its last byte but one: the ninth byte in a buffer of eight overflows. -/
theorem test_rxPush_overflows :
    after (small (receiving [1, 2, 3, 4, 5, 6, 7, 8])) 0x00000901 0 (fun s => (seen s, s.rxCount)) =
      some ((0, 0x00000020), 8) := by decide +kernel
/-- Vectors T1 and T2. -/
theorem test_rxPoll_in_time :
    after { receiving [0x55] with rxLastMs := 1000 } 0x00000002 1100 (fun s => (seen s, s.rxCount)) =
      some ((0, 0x00000000), 1) := by decide
theorem test_rxPoll_too_late :
    after { receiving [0x55] with rxLastMs := 1000 } 0x00000002 1101 (fun s => (seen s, s.rxCount)) =
      some ((1, 0x00000040), 0) := by decide
/-- Vectors T12 and T14. -/
theorem test_rxRelease_frees : after (holding e1) 0x00000003 0 (fun s => (seen s, s.rxCount)) = some ((0, 0), 0) := by
  decide
theorem test_rxRelease_keeps_partial :
    after { receiving [0x55] with rxErr := true, rxErrCode := some .badCrc } 0x00000003 0
      (fun s => (seen s, s.rxCount)) = some ((0, 0), 1) := by decide
/-- Vectors T18 and T16. -/
theorem test_rxRead_partial : after (receiving [0x55, 0x66]) 0x00004004 0 seen = some (0x66, 0) := by decide
theorem test_rxRead_range : after (holding e1) 0x00020004 0 seen = some (0, 0x00000301) := by decide
/-- TXP_WRITE 255, 0xAB and TXP_WRITE 256, 0xAB. -/
theorem test_txpWrite_last :
    after State.reset 0x00FFAB05 0 (fun s => (seen s, s.txp)) = some ((0, 0), [(255, 0xAB)]) := by decide
theorem test_txpWrite_range :
    after State.reset 0x0100AB05 0 (fun s => (seen s, s.txp)) = some ((0, 0x00000300), []) := by decide
/-- TX_SETLEN 256, and TX_SETLEN 4 followed by TX_SETLEN 257. -/
theorem test_txSetLen_max : after State.reset 0x01000006 0 (fun s => (seen s, s.txLen)) = some ((0, 0), 256) := by decide
theorem test_txSetLen_range :
    after { State.reset with txLen := 4 } 0x01010006 0 (fun s => (seen s, s.txLen)) = some ((0, 0x00000300), 4) := by
  decide
/-- Vector E6: the header CRC is a delimiter and is escaped. -/
theorem test_txEncode_escapes_crc :
    after (sending []) 0x0000F607 0 (fun s => (seen s, bytesAt s .txf 11)) =
      some ((11, 0x00000080), [0x7E, 0x55, 0x00, 0xF6, 0x00, 0x00, 0x00, 0x00, 0x7D, 0x5E, 0x7E]) := by decide +kernel
/-- Vector E5: the transaction id is an escape character. -/
theorem test_txEncode_payload :
    after (sending [0xAA]) 0x00017D07 0 (fun s => (seen s, bytesAt s .txf 12)) =
      some ((12, 0x00000080), [0x7E, 0x55, 0x01, 0x7D, 0x5D, 0x01, 0x00, 0x5F, 0x00, 0xA6, 0xAA, 0x7E]) := by
  decide +kernel
/-- TXF_READ 9 and TXF_READ 10 after TX_ENCODE 5, 0, 0. -/
theorem test_txfRead_last : after (built ([0x7E] ++ e1 ++ [0x7E])) 0x00024008 0 seen = some (0x7E, 0x00000080) := by
  decide
theorem test_txfRead_range : after (built ([0x7E] ++ e1 ++ [0x7E])) 0x00028008 0 seen = some (0, 0x00000380) := by
  decide
theorem test_crc8Clear :
    after { State.reset with crcAcc := 0xF4 } 0x00000009 0 (fun s => (seen s, s.crcAcc)) = some ((0, 0), 0) := by decide
/-- CRC8_UPDATE 0x55; CRC8_UPDATE 0x00. -/
theorem test_crc8Update :
    after { State.reset with crcAcc := 0xAC } 0x0000000A 0 (fun s => (seen s, s.crcAcc)) = some ((0x4D, 0), 0x4D) := by
  decide
/-- CRC8_UPDATE with bit 24 set is ILLEGAL and keeps the accumulator. -/
theorem test_crc8Update_illegal :
    after { State.reset with crcAcc := 0xAC } 0x0100550A 0 (fun s => (seen s, s.crcAcc)) =
      some ((0, 0x00000100), 0xAC) := by decide
/-- Vectors K8 and K9. -/
theorem test_setTimeout : after State.reset 0xFFFFFF0B 0 (fun s => (seen s, s.rxTimeout)) = some ((0, 0), 0xFFFFFF) := by
  decide
theorem test_setTimeout_illegal :
    after State.reset 0x0000FA1B 0 (fun s => (seen s, s.rxTimeout)) = some ((0, 0x00000100), 100) := by decide
/-- Vector K10, its last command. -/
theorem test_softReset :
    after { holding e1 with rxTimeout := 250, crcAcc := 0xAC } 0x0000000C 7
      (fun s => (seen s, s.rxTimeout, s.rxCount, s.crcAcc)) = some ((0, 0), 100, 0, 0) := by decide
/-- Vector K2, its last command. -/
theorem test_nop : after { State.reset with cmdResult := .range } 0x00000000 0 seen = some (0, 0) := by decide
/-- The word the host places is the one the very next step runs. -/
theorem test_withFetchWord :
    (match step (State.reset.withFetchWord 32 0x0000FA0B) with | .next u => u.rxTimeout | _ => 0) = 250 := by decide

/-! ## The assembler -/

/-- Lines of programs P4 and P5. -/
theorem test_assemble_time :
    assembleLine 0 "RX_POLL @70".toList = .ok (70, [⟨0x00000002, 70⟩]) := by rfl
theorem test_assemble_comment :
    assembleLine 7 "RX_PUSH 0x7E ; pushed again".toList = .ok (7, [⟨0x00007E01, 7⟩]) := by rfl
/-- R70 with vector E3's payload. -/
theorem test_assemble_pseudo :
    commandsOf ⟨"TXP_LOAD", [0x7E, 0x7D]⟩ = some [.txpWrite 0 0x7E, .txpWrite 1 0x7D, .txSetLen 2] := by decide
/-- R69: an operand that does not fit is refused. -/
theorem test_assemble_refuses : assembleLine 0 "RX_PUSH 256".toList = .error .badStatement := by rfl

/-! ## Witnesses: each statement's hypotheses, met together -/

/-- An outcome that is a next state with a property. -/
theorem next_of {o : Host.Outcome State Fault Refusal} {p : State → Bool}
    (h : (match o with | .next t => p t | .fault _ => false | .refused _ => false) = true) :
    ∃ t, o = .next t ∧ p t = true := by
  split at h
  · exact ⟨_, rfl, h⟩
  · simp at h
  · simp at h

theorem witness_StepRunsTheDecodedCommand :
    (State.reset.offer 0x0000000C 5).commands = ⟨0x0000000C, 5⟩ :: [] ∧ decode 0x0000000C = .ok .softReset := ⟨rfl, rfl⟩

theorem witness_WithoutACommandTheStatePersists : State.reset.commands = [] := rfl

/-- The clauses `IllegalWithBits op bits` of the statements on single commands: a word of each format's opcode with a
must-be-zero bit set. -/
theorem witness_IllegalWithBits :
    (0x80000010 : Word) &&& 0xFFFFFFF0 ≠ 0 ∧ (0x8000001A : Word) &&& 0xFFFF00F0 ≠ 0 ∧
      (0x80000017 : Word) &&& 0xFF0000F0 ≠ 0 ∧ (0x00002018 : Word) &&& 0x00003FF0 ≠ 0 ∧
      (0x00000095 : Word) &&& 0x000000F0 ≠ 0 ∧ (0x00008016 : Word) &&& 0x0000FFF0 ≠ 0 := by decide

/-- The opcodes of those words. -/
theorem witness_IllegalWithBits_opcode :
    ([0x80000010, 0x8000001A, 0x80000017, 0x00002018, 0x00000095, 0x00008016] : List Word).map
      (fun w => w.toNat % 16) = [0x0, 0xA, 0x7, 0x8, 0x5, 0x6] := by decide

/-- The lowest reserved opcode and the lowest must-be-zero bit; and the highest opcode that is a command. -/
theorem witness_IllegalWordsOnlyReportIllegal :
    IllegalWord 0x0000000D ∧ IllegalWord 0x00000010 ∧ ¬ IllegalWord 0x0000000C := by
  unfold IllegalWord; decide

theorem witness_DecoderFollowsTheOpcodeMap :
    ∃ r ∈ opcodeTable, (0xFFFFFF0B : Word) &&& r.mask = r.matchBits := by decide

theorem witness_OperandsAreTheirFields : decode 0xFFFFC004 = .ok (.rxRead 0x3FFFF) := rfl

theorem witness_LegalWordIsTheEncodingOfItsCommand : decode 0x00FFFF07 = .ok (.txEncode 255 7 31) := rfl

theorem witness_AssemblerRefusesOperandsThatDoNotFit :
    commandOf ⟨"TX_ENCODE", [255, 7, 31]⟩ = some (.txEncode 255 7 31) := by decide

/-- There is a list of any length. -/
theorem long (n : Nat) : ∃ bs : List Byte, bs.length = n ∧ (0 < n → bs ≠ []) :=
  ⟨List.replicate n 0x7E, List.length_replicate, fun h h' => by simp at h'; omega⟩

/-- The shortest list, and the longest that TXP_LOAD takes. -/
theorem witness_PseudoInstructionsExpand :
    (∃ bs : List Byte, bs ≠ [] ∧ bs.length = 1) ∧ ∃ bs : List Byte, bs ≠ [] ∧ bs.length ≤ 65535 ∧ 65535 ≤ bs.length :=
  have ⟨bs, h, h'⟩ := long 65535
  ⟨⟨[0x7E], by decide, rfl⟩, bs, h' (by decide), by omega, by omega⟩

theorem witness_CrcConsequences :
    ([0x01, 0x02] : List Byte).length = ([0x03, 0x04] : List Byte).length ∧ (0x00 : Byte) ≠ 0x80 := by decide

theorem witness_Crc8UpdateTakesTheNextByte :
    { State.reset with commands := writesFor [(.crc8Clear, 0), (.crc8Update 0x55, 0)] }.commands =
      writesFor ((.crc8Clear, 0) :: [0x55].map fun b => (.crc8Update b, 0)) ++ [] := rfl

theorem witness_EscapingActsByteByByte : escapeAll [0x7E] = escapeAll [0x7E] := rfl

/-- The longest payload of the length field. -/
theorem witness_FrameHasTheHeaderLayout : ∃ p : List Byte, p.length ≤ 65535 ∧ 65535 ≤ p.length :=
  have ⟨p, h, _⟩ := long 65535
  ⟨p, by omega, by omega⟩

theorem witness_EncodedFrameAlwaysFits :
    { State.reset with txLen := 256 }.txLen.toNat ≤ State.reset.cfg.maxTxPayload.val := by decide

/-- Index 255, the last there is, and index 256. -/
theorem witness_TxpWriteStoresThePayloadByte :
    (255 : BitVec 16).toNat < State.reset.cfg.maxTxPayload.val ∧
      (∃ t, exec (.txpWrite 255 0xAB) State.reset = .next t) ∧
      State.reset.txLen.toNat ≤ (255 : BitVec 16).toNat ∧
      State.reset.cfg.maxTxPayload.val ≤ (256 : BitVec 16).toNat := ⟨by decide, ⟨_, rfl⟩, by decide, by decide⟩

theorem witness_TxSetLenSetsTheLength :
    (256 : BitVec 16).toNat ≤ State.reset.cfg.maxTxPayload.val ∧
      State.reset.cfg.maxTxPayload.val < (257 : BitVec 16).toNat := by decide

theorem witness_TxEncodeBuildsTheFrame :
    { State.reset with txLen := 256 }.txLen.toNat ≤ State.reset.cfg.maxTxPayload.val ∧
      ∀ b ∈ buildHeader (hb1 0 0) 5 [], b ≠ 0x7E ∧ b ≠ 0x7D := by decide +kernel

/-- The frame of vector E1 is built. -/
theorem encodes : ∃ t, exec (.txEncode 5 0 0) State.reset = .next t ∧ t.txValid = true :=
  next_of (p := State.txValid) (by decide +kernel)

/-- The last index below the length and the first past it; and a frame just encoded. -/
theorem witness_TxfReadReturnsTheFrameByte :
    (9 : BitVec 18).toNat < (built ([0x7E] ++ e1 ++ [0x7E])).txFrameLen.toNat ∧
      (built ([0x7E] ++ e1 ++ [0x7E])).txFrameLen.toNat ≤ (built ([0x7E] ++ e1 ++ [0x7E])).cfg.txfSize ∧
      (built ([0x7E] ++ e1 ++ [0x7E])).txFrameLen.toNat ≤ (10 : BitVec 18).toNat ∧
      State.reset.txLen.toNat ≤ State.reset.cfg.maxTxPayload.val ∧
      ∃ t, exec (.txEncode 5 0 0) State.reset = .next t := by
  exact ⟨by decide, by decide, by decide, by decide, encodes.imp fun _ h => h.1⟩

theorem witness_UnwrittenPayloadBytesAreFree : (256 : BitVec 16).toNat ≤ State.reset.cfg.maxTxPayload.val := by decide

/-- 101 milliseconds, 100 milliseconds, and a timeout of 0. -/
theorem witness_RxPollAppliesTheTimeout :
    Stale { receiving [0x55] with rxLastMs := 1000, nowMs := 1101 } ∧
      ¬ Stale { receiving [0x55] with rxLastMs := 1000, nowMs := 1100 } ∧
      Partial { receiving [0x55] with rxTimeout := 0 } ∧ { receiving [0x55] with rxTimeout := 0 }.rxTimeout = 0 := by
  unfold Stale Partial; decide

theorem witness_OnlyAStalePartialFrameIsDiscarded :
    ∃ t, exec .rxPoll { receiving [0x55] with rxLastMs := 1000, nowMs := 1101 } = .next t ∧
      { receiving [0x55] with rxLastMs := 1000, nowMs := 1101 }.rxDiscard = false ∧ t.rxDiscard = true :=
  ⟨_, rfl, rfl, rfl⟩

theorem witness_RxPushIsBusyWhileAFrameIsHeld : (holding e1).rxReady = true := rfl

/-- The last free place of the buffer with an escape pending, the buffer full; an escaped escape, and a plain byte. -/
theorem witness_RxPushStoresADataByte :
    (∃ s : State, s.rxReady = false ∧ ¬ Stale s ∧ (0x7D : Byte) ≠ 0x7E ∧ s.rxEsc = true ∧
      s.rxCount.toNat < s.cfg.rxBufSize ∧ s.rxCount.toNat + 1 = s.cfg.rxBufSize) ∧
    (∃ s : State, s.rxReady = false ∧ ¬ Stale s ∧ (0x00 : Byte) ≠ 0x7E ∧ s.rxEsc = false ∧ (0x00 : Byte) ≠ 0x7D ∧
      s.cfg.rxBufSize ≤ s.rxCount.toNat) := by
  refine ⟨⟨small { receiving [1, 2, 3, 4, 5, 6, 7] with rxEsc := true }, ?_⟩,
    ⟨small (receiving [1, 2, 3, 4, 5, 6, 7, 8]), ?_⟩⟩ <;> unfold Stale Partial <;> decide

theorem witness_RxPushOfEscWaitsForItsPartner :
    State.reset.rxReady = false ∧ ¬ Stale State.reset ∧ State.reset.rxEsc = false := by
  unfold Stale Partial; decide

/-- One state for each of the seven cases: an escape pending; an overflow; nothing buffered; seven bytes; vector X14 (a wrong
header CRC); vector X20 (type 2); vector X1. -/
theorem witness_DelimiterClosesTheFrame :
    (∀ s ∈ [{ receiving e1 with rxEsc := true }, { small (receiving [1, 2, 3, 4, 5, 6, 7, 8]) with rxOvf := true },
        State.reset, receiving [1, 2, 3, 4, 5, 6, 7], receiving [0x55, 0, 5, 0, 0, 0, 0, 0xD2],
        receiving [0x55, 2, 5, 0, 0, 0, 0, 0x83], receiving e1],
      s.rxReady = false ∧ ¬ Stale s ∧ s.rxCount.toNat ≤ s.cfg.rxBufSize) ∧
    (receiving [1, 2, 3, 4, 5, 6, 7]).rxCount ≠ 0 ∧ ¬ LengthGood (buffered (receiving [1, 2, 3, 4, 5, 6, 7])) ∧
    LengthGood (buffered (receiving [0x55, 0, 5, 0, 0, 0, 0, 0xD2])) ∧
    ¬ CrcGood (buffered (receiving [0x55, 0, 5, 0, 0, 0, 0, 0xD2])) ∧
    LengthGood (buffered (receiving [0x55, 2, 5, 0, 0, 0, 0, 0x83])) ∧
    CrcGood (buffered (receiving [0x55, 2, 5, 0, 0, 0, 0, 0x83])) ∧
    ¬ PacketGood (buffered (receiving [0x55, 2, 5, 0, 0, 0, 0, 0x83])) ∧
    LengthGood (buffered (receiving e1)) ∧ CrcGood (buffered (receiving e1)) ∧ PacketGood (buffered (receiving e1)) := by
  unfold Stale Partial LengthGood CrcGood PacketGood
  decide +kernel

theorem witness_StalePushStartsAfresh : Stale { receiving [0x55] with nowMs := 101 } := by
  unfold Stale Partial; decide

theorem witness_RxReleaseFreesTheFrame : (holding e1).rxReady = true ∧ (receiving [0x55]).rxReady = false := by decide

theorem witness_RxReadReturnsTheBufferedByte :
    (7 : BitVec 18).toNat < (small (holding e1)).rxCount.toNat ∧
      (small (holding e1)).rxCount.toNat ≤ (small (holding e1)).cfg.rxBufSize ∧
      (small (holding e1)).rxCount.toNat ≤ (8 : BitVec 18).toNat := by decide

theorem witness_ReleasedFrameIsGone : (holding e1).rxReady = true ∧ ∃ t, exec .rxRelease (holding e1) = .next t :=
  ⟨rfl, _, rfl⟩

theorem witness_DelimitersAtIdleAreNoEvent :
    Idle { State.reset with commands := pushesFor [(0x7E, 0), (0x7E, 500)] } ∧
      { State.reset with commands := pushesFor [(0x7E, 0), (0x7E, 500)] }.commands =
        pushesFor (([0] ++ [500]).map fun t => (0x7E, t)) ++ [] := by
  unfold Idle; exact ⟨by decide, rfl⟩

/-- Vector X30 at the latest times that are in time, filling half of the smallest buffer. -/
theorem witness_EscapingRoundTripsThroughTheDecoder :
    ∃ (s : State) (xs : List (Byte × Word)), Idle s ∧ ([0x7E, 0x7D, 0x7E, 0x7D] : List Byte).length ≤ s.cfg.rxBufSize ∧
      xs.map Prod.fst = escapeAll [0x7E, 0x7D, 0x7E, 0x7D] ∧ inTime s.rxTimeout.toNat xs ∧
      s.commands = pushesFor xs ++ [] := by
  refine ⟨{ State.reset with commands := pushesFor [(0x7D, 900), (0x5E, 1000), (0x7D, 1100), (0x5D, 1200), (0x7D, 1300),
    (0x5E, 1400), (0x7D, 1500), (0x5D, 1600)] }, [(0x7D, 900), (0x5E, 1000), (0x7D, 1100), (0x5D, 1200), (0x7D, 1300),
    (0x5E, 1400), (0x7D, 1500), (0x5D, 1600)], ?_, by decide, by decide, ?_, rfl⟩
  · unfold Idle; decide
  · simp only [inTime, inTimeAfter]; decide

/-- A frame of one payload byte: type 1, which is accepted in a buffer of 264; type 2, which is not; and the smallest buffer,
which it overflows. -/
theorem witness_DecoderAcceptsWhatTheEncoderBuilds :
    ∀ h : Byte, ∃ (s : State) (xs : List (Byte × Word)), Idle s ∧ ([0xAA] : List Byte).length ≤ 65535 ∧
      xs.map Prod.fst = buildFrame h 0x7D [0xAA] ∧ inTime s.rxTimeout.toNat xs ∧ s.commands = pushesFor xs ++ [] ∧
      (small s).commands = s.commands ∧ (small s).cfg.rxBufSize + 1 = 8 + ([0xAA] : List Byte).length ∧
      8 + ([0xAA] : List Byte).length ≤ s.cfg.rxBufSize ∧ (0x01 : Byte).toNat % 8 ≤ 1 ∧ 2 ≤ (0x02 : Byte).toNat % 8 := by
  intro h
  have hz : ∀ (n : Nat) (l : List Byte) (t : Word), inTimeAfter n t (l.map fun b => (b, t)) := by
    intro n l t
    induction l with
    | nil => trivial
    | cons b l ih =>
      refine ⟨?_, ih⟩
      rw [Nat.add_sub_cancel_left, Nat.mod_self]; exact Nat.zero_le n
  refine ⟨{ State.reset with commands := pushesFor ((buildFrame h 0x7D [0xAA]).map fun b => (b, 0)) },
    (buildFrame h 0x7D [0xAA]).map fun b => (b, 0), ⟨rfl, rfl, rfl, rfl⟩, by decide, ?_, ?_, ?_, rfl, rfl,
    (by decide : 9 ≤ 264), by decide, by decide⟩
  · rw [List.map_map]; exact List.map_id _
  · exact hz 100 _ 0
  · rw [List.append_nil]

theorem witness_OpeningDelimiterIsNotNeeded :
    ∃ (s : State) (xs : List (Byte × Word)), Idle s ∧ (0x00 : Byte).toNat % 8 ≤ 1 ∧ ([] : List Byte).length ≤ 65535 ∧
      8 + ([] : List Byte).length ≤ s.cfg.rxBufSize ∧ 0x7E :: xs.map Prod.fst = buildFrame 0x00 0x05 [] ∧
      inTime s.rxTimeout.toNat xs ∧ s.commands = pushesFor xs ++ [] := by
  refine ⟨small { State.reset with commands := pushesFor ((e1 ++ [0x7E]).map fun b => (b, 0)) },
    (e1 ++ [0x7E]).map fun b => (b, 0), ?_, by decide, by decide, by decide, by decide +kernel, ?_, rfl⟩
  · unfold Idle; decide
  · simp only [e1, inTime, inTimeAfter, List.cons_append, List.nil_append, List.map_cons, List.map_nil]; decide

/-- A changed length byte, a changed header CRC, a changed payload byte (the last byte there is). -/
theorem witness_OneChangedByteIsFound :
    LengthGood e5 ∧ CrcGood e5 ∧ PacketGood e5 ∧
      ∀ i ∈ [3, 7, 8], i < e5.length ∧ e5[i]? ≠ some 0xFF ∧ (receiving (e5.set i 0xFF)).rxReady = false ∧
        ¬ Stale (receiving (e5.set i 0xFF)) ∧ (receiving (e5.set i 0xFF)).rxEsc = false ∧
        (receiving (e5.set i 0xFF)).rxOvf = false ∧
        (receiving (e5.set i 0xFF)).rxCount.toNat ≤ (receiving (e5.set i 0xFF)).cfg.rxBufSize ∧
        buffered (receiving (e5.set i 0xFF)) = e5.set i 0xFF := by
  unfold Stale Partial LengthGood CrcGood PacketGood
  decide +kernel

theorem witness_SetTimeoutSetsTheTimeout : ∃ t, exec (.setTimeout 0xFFFFFF) State.reset = .next t := ⟨_, rfl⟩

/-- After a reset at a later draw. -/
theorem witness_ResetGivesEveryElementItsValue : AtReset { State.reset with draws := 3 } := by
  constructor <;> first | rfl | (intro b i; cases b <;> rfl)

theorem witness_ResetIsIdempotent :
    ∃ t u, exec .softReset (holding e1) = .next t ∧ exec .softReset t = .next u := ⟨_, _, rfl, rfl⟩

theorem witness_StatusShowsTheFlags : 11 ≤ 11 ∧ ∃ t, exec .rxRelease (holding e1) = .next t := ⟨le_refl _, _, rfl⟩

theorem witness_HeaderViewsShowTheHeldFrame : (holding e1).rxReady = true ∧ (receiving e1).rxReady = false := by decide

theorem witness_PlainViewsAndUnmappedOffsets : (0x01 : BitVec 8).toNat % 4 ≠ 0 ∧ 0x28 < (0x29 : BitVec 8).toNat := by decide

/-- A command of each kind answers a next state: used by the statements about every command. -/
theorem witness_ElementsChangeOnlyByTheirCommands :
    (∃ t, exec (.rxPush 0x55) State.reset = .next t ∧ t.rxCount ≠ State.reset.rxCount) ∧
      (∃ t, exec (.txEncode 5 0 0) State.reset = .next t ∧ t.txValid ≠ State.reset.txValid) ∧
      (∃ t, exec (.crc8Update 1) State.reset = .next t ∧ t.crcAcc ≠ State.reset.crcAcc) ∧
      Instr.rxPush 0x55 ≠ .softReset :=
  ⟨⟨_, rfl, by decide⟩, encodes.imp fun _ h => ⟨h.1, by rw [h.2]; decide⟩, ⟨_, rfl, by decide⟩, by decide⟩

theorem witness_NoCommandChangesTheConfiguration : ∃ t, exec .softReset (holding e1) = .next t := ⟨_, rfl⟩

/-- A push that stores and the four that do not; a write in range and one past it; an encode. -/
theorem witness_StoringCommandsKeepTheOtherBytes :
    (∃ t, exec (.rxPush 0x55) State.reset = .next t) ∧
      (∃ t, exec (.rxPush 0x55) (holding e1) = .next t) ∧ (holding e1).rxReady = true ∧
      (∃ t, exec (.rxPush 0x7D) State.reset = .next t) ∧ (beforeByte State.reset).rxEsc = false ∧
      (small (receiving [1, 2, 3, 4, 5, 6, 7, 8])).cfg.rxBufSize ≤
        (beforeByte (small (receiving [1, 2, 3, 4, 5, 6, 7, 8]))).rxCount.toNat ∧
      (∃ t, exec (.rxPush 0x55) (small (receiving [1, 2, 3, 4, 5, 6, 7, 8])) = .next t) ∧
      (∃ t, exec (.txpWrite 256 0xAB) State.reset = .next t) ∧
      State.reset.cfg.maxTxPayload.val ≤ (256 : BitVec 16).toNat ∧
      ∃ t, exec (.txEncode 5 0 0) State.reset = .next t := by
  refine ⟨⟨_, rfl⟩, ⟨_, rfl⟩, rfl, ⟨_, rfl⟩, by decide, by decide, ⟨_, rfl⟩, ⟨_, rfl⟩, by decide,
    encodes.imp fun _ h => h.1⟩

/-- Vector X13, its last byte; and a push that is no frame error. -/
theorem witness_MinusOneIsAFrameError :
    (∃ t, exec (.rxPush 0x7E) (receiving [0x55, 0x00, 0x05]) = .next t ∧ t.result = 0xFFFFFFFF) ∧
      (∃ t, exec (.rxPush 0x7E) State.reset = .next t ∧ t.result ≠ 0xFFFFFFFF) ∧
      Instr.rxPush 0x7E ≠ .rxRelease ∧ Instr.rxPush 0x7E ≠ .softReset :=
  ⟨⟨_, rfl, by decide⟩, ⟨_, rfl, by decide⟩, by decide, by decide⟩

theorem witness_HeldFrameStaysUntilReleased :
    (∃ t, exec .rxRelease (holding e1) = .next t ∧ (holding e1).rxReady = true ∧ t.rxReady = false) ∧
      (∃ t, exec (.rxPush 0x7E) (receiving e1) = .next t ∧ (receiving e1).rxReady = false ∧ t.rxReady = true) ∧
      (∃ t, exec .rxPoll (holding e1) = .next t ∧ (holding e1).rxReady = true ∧ t.rxReady = true) :=
  ⟨⟨_, rfl, rfl, by decide⟩,
    (next_of (p := State.rxReady) (by decide +kernel)).imp fun _ h => ⟨h.1, rfl, h.2⟩, ⟨_, rfl, rfl, by decide⟩⟩

theorem witness_CommandErrorsHaveTheirCauses :
    (∃ t, exec (.rxRead 8) (holding e1) = .next t ∧ t.cmdResult ≠ .ok) ∧
      ∃ t, exec (.rxPush 0x55) (holding e1) = .next t ∧ t.cmdResult = .busy :=
  ⟨⟨_, rfl, by decide⟩, ⟨_, rfl, by decide⟩⟩

theorem witness_OnlyPushAndPollLookAtTheTime :
    (∃ t, exec (.rxRead 0) (holding e1) = .next t) ∧ Instr.rxRead 0 ≠ .rxPoll ∧ ∀ d8, Instr.rxRead 0 ≠ .rxPush d8 :=
  ⟨⟨_, rfl⟩, by decide, by simp⟩

theorem witness_AccumulatorIsIndependent :
    (∃ t, exec (.txEncode 5 0 0) State.reset = .next t) ∧ Instr.txEncode 5 0 0 ≠ .crc8Clear ∧
      (∀ d8, Instr.txEncode 5 0 0 ≠ .crc8Update d8) ∧ Instr.txEncode 5 0 0 ≠ .softReset :=
  ⟨encodes.imp fun _ h => h.1, by simp, by simp, by simp⟩

/-- Two states that differ on the other side. -/
theorem witness_ReceiveAndTransmitShareNoState :
    (onReceivePath (.rxPush 0x55) = true ∧ SameInstance State.reset (sending [0xAA]) ∧
      SameReceive State.reset (sending [0xAA]) ∧ ∃ t, exec (.rxPush 0x55) State.reset = .next t) ∧
    (onTransmitPath (.txEncode 5 0 0) = true ∧ SameInstance State.reset (holding e1) ∧
      SameTransmit State.reset (holding e1) ∧ ∃ t, exec (.txEncode 5 0 0) State.reset = .next t) := by
  unfold SameInstance SameReceive SameTransmit
  exact ⟨⟨rfl, by decide, by decide, _, rfl⟩, rfl, by decide, by decide,
    encodes.imp fun _ h => h.1⟩

/-- The invariant with a partial frame in the smallest buffer, full, and a word waiting on the port. -/
theorem inv_receiving :
    Inv ((small (receiving [1, 2, 3, 4, 5, 6, 7, 8])).offer 0x00000901 7) := by
  constructor
  · decide
  · decide
  · decide
  · intro h; exact absurd h (by decide)
  · decide
  · decide
  · decide
  · decide
  · intro b; cases b <;> exact ⟨by decide, by decide⟩
  · intro i hi
    have hi : i < 8 := hi
    interval_cases i <;> decide
  · intro i hi; exact absurd hi (Nat.not_lt_zero i)

theorem witness_ReceiveAndTransmitCommandsInterleaveFreely :
    Inv ((small (receiving [1, 2, 3, 4, 5, 6, 7, 8])).offer 0x00000901 7) ∧ onReceivePath (.rxPush 0x09) = true ∧
      onTransmitPath (.txfRead 0) = true := ⟨inv_receiving, rfl, rfl⟩

theorem witness_EveryStepKeepsTheInvariant :
    Inv ((small (receiving [1, 2, 3, 4, 5, 6, 7, 8])).offer 0x00000901 7) ∧
      ∃ t, step ((small (receiving [1, 2, 3, 4, 5, 6, 7, 8])).offer 0x00000901 7) = .next t :=
  ⟨inv_receiving, _, rfl⟩

theorem witness_EveryProgramRunsToItsEnd :
    Inv ((small (receiving [1, 2, 3, 4, 5, 6, 7, 8])).offer 0x00000901 7) ∧
      ((small (receiving [1, 2, 3, 4, 5, 6, 7, 8])).offer 0x00000901 7).commands.length = 1 :=
  ⟨inv_receiving, rfl⟩

theorem witness_WrittenPayloadIsFramedAndReadOut :
    ∃ s : State, ([0x7E] : List Byte).length ≤ s.cfg.maxTxPayload.val ∧
      s.commands = writesFor ((expandTxpLoad [0x7E] ++ [Instr.txEncode 1 1 0]).map fun i => (i, 9)) ++ [] :=
  ⟨{ State.reset with
      cfg := { rxPayloadMax := 0, maxTxPayload := 1 }
      commands := writesFor ((expandTxpLoad [0x7E] ++ [Instr.txEncode 1 1 0]).map fun i => (i, 9)) }, by decide, by simp⟩

end Sys2Proof.Tests
end

section
/-! The invariant of R44 through every command, and what follows: no step of a state with the invariant stops, and a host's
list of writes is taken to its end. In order: the length of a built frame, what each change of the state does to the
invariant, the commands one by one, the step, the run. -/

namespace Sys2Proof.Machine

/-! ## The length of a built frame (R76, R86) -/

/-- Two delimiters, and each header and payload byte once or, escaped, twice. -/
theorem length_buildFrame_bounds (hb1 tid : Byte) (p : List Byte) :
    p.length + 10 ≤ (buildFrame hb1 tid p).length ∧ (buildFrame hb1 tid p).length ≤ 2 * (8 + p.length) + 2 := by
  have hcount := List.countP_le_length (p := fun b => b == 0x7E || b == 0x7D) (l := buildHeader hb1 tid p ++ p)
  simp only [buildFrame, List.length_append, List.length_singleton, length_escapeAll, length_buildHeader] at hcount ⊢
  omega

/-- The frame of a payload within `MAX_TX_PAYLOAD` fits in `TXF`. -/
theorem length_frameToSend_bounds {s : State} (h : s.txLen.toNat ≤ s.cfg.maxTxPayload.val) (tid8 : BitVec 8)
    (type3 : BitVec 3) (val5 : BitVec 5) :
    10 ≤ (frameToSend tid8 type3 val5 s).length ∧ (frameToSend tid8 type3 val5 s).length ≤ s.cfg.txfSize := by
  have hframe := length_buildFrame_bounds (hb1 type3 val5) tid8 (bytesAt s .txp s.txLen.toNat)
  rw [length_bytesAt] at hframe
  simp only [frameToSend, Config.txfSize]
  omega

/-! ## Changes that keep the invariant -/

/-- How a command ends does not touch the invariant. -/
theorem inv_answer {s : State} (h : Inv s) (r : Word) (c : CmdResult) : Inv { s with result := r, cmdResult := c } := by
  apply inv_congr h <;> rfl

/-- Nor does the taking of a command from the port. -/
theorem inv_sampled {s : State} (h : Inv s) (now : Word) (rest : List PortWrite) :
    Inv { s with nowMs := now, commands := rest } := by
  apply inv_congr h <;> rfl

/-- One buffer replaced by contents in canonical form and within its size leaves all of them so. -/
theorem bufferForm_setMem {s : State} {b : BufferId} {m : Memory} (h : ∀ b', BufferForm s b') (hw : Memory.wf m = true)
    (hb : Memory.below (s.cfg.size b) m = true) (b' : BufferId) : BufferForm (s.setMem b m) b' := by
  rw [BufferForm, setMem_cfg]
  by_cases hbb : b' = b
  · subst hbb
    rw [mem_setMem_same]
    exact ⟨hw, hb⟩
  · rw [mem_setMem_other s m hbb]
    exact h b'

/-- A write within the buffer keeps the buffers' form. -/
theorem bufferForm_write {s : State} {b : BufferId} {i : Nat} (h : ∀ b', BufferForm s b') (hi : i < s.cfg.size b)
    (v : Byte) : ∀ b', BufferForm (s.setMem b (Memory.write (s.mem b) i v)) b' :=
  bufferForm_setMem h (wf_write _ i v (h b).1) (below_write _ _ i v hi (h b).2)

/-- So does a run of writes that fits in it. -/
theorem bufferForm_writeAll {s : State} {b : BufferId} {vs : List Byte} (h : ∀ b', BufferForm s b')
    (hl : vs.length ≤ s.cfg.size b) : ∀ b', BufferForm (s.setMem b (Memory.writeAll (s.mem b) 0 vs)) b' :=
  bufferForm_setMem h (wf_writeAll vs _ 0 (h b).1) (below_writeAll vs _ _ 0 (by omega) (h b).2)

/-- After a reset the invariant holds, whatever held before (R127). -/
theorem inv_resetAll (s : State) : Inv (resetAll s) where
  countRange := Nat.zero_le _
  lenRange := Nat.zero_le _
  frameRange := .inl rfl
  held := by simp
  overflow := by simp
  errorCode := by simp
  frameBuilt := by simp
  cmdResultRange := cmdCode_le _
  bufferForm b := by cases b <;> exact ⟨rfl, rfl⟩
  rxWritten i hi := absurd hi (Nat.not_lt_zero i)
  txWritten i hi := absurd hi (Nat.not_lt_zero i)

/-! ## The receive side -/

theorem inv_discardPartial {s : State} (h : Inv s) (hr : s.rxReady = false) : Inv (discardPartial s) :=
  inv_empty h rfl rfl hr h.errorCode rfl rfl rfl rfl rfl rfl rfl

theorem inv_timeoutCheck {s : State} (h : Inv s) : Inv (timeoutCheck s) := by
  by_cases hs : Stale s
  · rw [timeoutCheck_of_stale hs]
    exact inv_discardPartial h hs.1.1
  · rw [timeoutCheck_of_not_stale hs]
    exact h

theorem inv_rejectFrame {s : State} (h : Inv s) (hr : s.rxReady = false) (r : FrameReason) : Inv (rejectFrame r s) :=
  inv_empty h rfl rfl hr (by simp) rfl rfl rfl rfl rfl rfl rfl

/-- A frame may be held when it meets what R44 item 1 asks of a held frame. -/
theorem inv_holdFrame {s : State} (h : Inv s) (he : s.rxEsc = false) (ho : s.rxOvf = false)
    (hl : LengthGood (buffered s)) (hc : CrcGood (buffered s)) (hp : PacketGood (buffered s)) : Inv (holdFrame s) := by
  obtain ⟨h8, hlen⟩ := hl
  have hcount : (buffered s).length = s.rxCount.toNat := length_bytesAt ..
  rw [hcount] at h8 hlen
  have hbyte (i : Nat) (hi : i < 8) : (buffered s).getD i 0 = byteAt s .rxb i := by
    rw [List.getD_eq_getElem?_getD, buffered, getElem?_bytesAt _ _ _ _ (by omega), Option.getD_some]
  rw [hbyte 3 (by omega), hbyte 4 (by omega)] at hlen
  exact { h with held := fun _ => ⟨he, ho, h8, hlen, hc, hp⟩ }

/-- Only a frame with all nine checks good is accepted (R96). -/
theorem validate_accepted {esc ovf : Bool} {b : List Byte} (h : validate esc ovf b = .accepted) :
    esc = false ∧ ovf = false ∧ LengthGood b ∧ CrcGood b ∧ PacketGood b := by
  obtain ⟨hesc, hovf, hempty, hlength, hcrc, hpacket, -⟩ := validate_cases esc ovf b
  cases esc with
  | true => simp [hesc rfl] at h
  | false =>
    cases ovf with
    | true => simp [hovf rfl rfl] at h
    | false =>
      have hb : b ≠ [] := fun hb => by simp [hempty rfl rfl hb] at h
      have hl : LengthGood b := by_contra fun hl => by simp [hlength rfl rfl hb hl] at h
      have hc : CrcGood b := by_contra fun hc => by simp [hcrc rfl rfl hl hc] at h
      have hp : PacketGood b := by_contra fun hp => by simp [hpacket rfl rfl hl hc hp] at h
      exact ⟨rfl, rfl, hl, hc, hp⟩

/-- The end of a frame, by the verdict on the bytes buffered (R97). -/
theorem inv_closeFrame {s : State} (h : Inv s) (hr : s.rxReady = false) {v : Verdict}
    (hv : validate s.rxEsc s.rxOvf (buffered s) = v) : Inv (closeFrame v s).1 := by
  cases v with
  | empty => exact h
  | accepted =>
    obtain ⟨he, ho, hl, hc, hp⟩ := validate_accepted hv
    exact inv_holdFrame h he ho hl hc hp
  | rejected r => exact inv_rejectFrame h hr r

/-- The escape flag is free while no frame is held. -/
theorem inv_setEsc {s : State} (h : Inv s) (hr : s.rxReady = false) (e : Bool) : Inv { s with rxEsc := e } :=
  { h with held := fun hheld => absurd (hr.symm.trans hheld) Bool.false_ne_true }

/-- A byte stored in a free place is the next one buffered (R94). -/
theorem inv_storeByte {s : State} (h : Inv s) (hr : s.rxReady = false) (hc : s.rxCount.toNat < s.cfg.rxBufSize)
    (d : Byte) : Inv { s with rxb := Memory.write s.rxb s.rxCount.toNat d, rxCount := s.rxCount + 1 } :=
  have hcount : (s.rxCount + 1).toNat = s.rxCount.toNat + 1 := toNat_succ_of_lt hc
  { h with
    countRange := by rw [hcount]; exact hc
    held := fun hheld => absurd (hr.symm.trans hheld) Bool.false_ne_true
    overflow := fun ho => absurd (h.overflow ho) (Nat.ne_of_lt hc)
    bufferForm := bufferForm_write (b := .rxb) h.bufferForm hc d
    rxWritten := fun i hi => by
      rw [hcount] at hi
      change (Memory.read? (Memory.write s.rxb s.rxCount.toNat d) i).isSome = true
      by_cases hlast : i = s.rxCount.toNat
      · rw [hlast, read?_write_same]; rfl
      · rw [read?_write_other _ _ hlast]
        exact h.rxWritten i (by omega) }

/-- A byte that finds the buffer full only sets the overflow flag (R94). -/
theorem inv_overflow {s : State} (h : Inv s) (hr : s.rxReady = false) (hc : s.cfg.rxBufSize ≤ s.rxCount.toNat) :
    Inv { s with rxOvf := true } :=
  { h with
    held := fun hheld => absurd (hr.symm.trans hheld) Bool.false_ne_true
    overflow := fun _ => Nat.le_antisymm h.countRange hc }

theorem inv_freeHeld {s : State} (h : Inv s) : Inv (freeHeld s) := by
  unfold freeHeld
  split
  · rename_i hheld
    obtain ⟨-, ho, -⟩ := h.held hheld
    exact inv_empty h rfl ho rfl h.errorCode rfl rfl rfl rfl rfl rfl rfl
  · exact h

theorem inv_clearSticky {s : State} (h : Inv s) : Inv (clearSticky s) :=
  { h with errorCode := by simp }

/-! ## The transmit side -/

theorem inv_txpWrite {s : State} (h : Inv s) {i : Nat} (hi : i < s.cfg.maxTxPayload.val) (d : Byte) :
    Inv { s with txp := Memory.write s.txp i d } :=
  { h with bufferForm := bufferForm_write (b := .txp) h.bufferForm hi d }

theorem inv_txSetLen {s : State} (h : Inv s) {n : BitVec 16} (hn : n.toNat ≤ s.cfg.maxTxPayload.val) :
    Inv { s with txLen := n } :=
  { h with lenRange := hn }

/-- A frame of at least 10 bytes that fits in `TXF` is built in it (R90). -/
theorem inv_writeFrame {s : State} (h : Inv s) {f : List Byte} (h10 : 10 ≤ f.length) (hfit : f.length ≤ s.cfg.txfSize) :
    Inv { s with txf := Memory.writeAll s.txf 0 f, txFrameLen := BitVec.ofNat 18 f.length, txValid := true } :=
  have hlen : (BitVec.ofNat 18 f.length).toNat = f.length := by
    obtain ⟨-, hmax⟩ := txfSize_range s.cfg
    rw [BitVec.toNat_ofNat, Nat.mod_eq_of_lt (by omega)]
  have hne : BitVec.ofNat 18 f.length ≠ 0 := fun h0 => by
    rw [h0] at hlen
    exact absurd (hlen.trans_ge h10) (by decide)
  { h with
    frameRange := .inr (by rw [hlen]; exact ⟨h10, hfit⟩)
    frameBuilt := iff_of_false (by simp) hne
    bufferForm := bufferForm_writeAll (b := .txf) h.bufferForm hfit
    txWritten := fun i hi => by
      rw [hlen] at hi
      change (Memory.read? (Memory.writeAll s.txf 0 f) i).isSome = true
      rw [read?_writeAll, if_pos ⟨Nat.zero_le i, by omega⟩, Nat.sub_zero, List.getElem?_eq_getElem hi]
      rfl }

/-! ## Every command keeps the invariant -/

theorem inv_execRxPush {s t : State} {d : Byte} (h : Inv s) (ht : exec (.rxPush d) s = .next t) : Inv t := by
  have hb := inv_beforeByte h
  obtain ⟨-, rfl⟩ | ⟨hr, -, -, v, hv, rfl⟩ | ⟨hr, -, -, -, rfl⟩ | ⟨hr, -, -, hc, rfl⟩ | ⟨hr, -, -, hc, rfl⟩ :=
    rxPush_next ht
  case inl => exact inv_answer h ..
  all_goals rw [← beforeByte_rxReady] at hr
  · exact inv_answer (inv_closeFrame hb hr hv) ..
  · exact inv_answer (inv_setEsc hb hr true) ..
  · rw [← beforeByte_cfg] at hc
    rw [← beforeByte_rxb]
    exact inv_answer (inv_setEsc (inv_storeByte hb hr hc _) hr false) ..
  · rw [← beforeByte_cfg] at hc
    exact inv_answer (inv_setEsc (inv_overflow hb hr hc) hr false) ..

/-- R44 is kept by every command that answers a next state. -/
theorem inv_exec {s t : State} {i : Instr} (h : Inv s) (ht : exec i s = .next t) : Inv t := by
  cases i with
  | nop => cases ht; exact inv_answer h ..
  | rxPush d => exact inv_execRxPush h ht
  | rxPoll => cases ht; exact inv_answer (inv_timeoutCheck h) ..
  | rxRelease => cases ht; exact inv_answer (inv_clearSticky (inv_freeHeld h)) ..
  | rxRead idx =>
    obtain ⟨-, -, rfl⟩ | ⟨-, rfl⟩ := rxRead_next ht <;> exact inv_answer h ..
  | txpWrite idx d =>
    obtain ⟨hi, rfl⟩ | ⟨-, rfl⟩ := txpWrite_next ht
    · exact inv_answer (inv_txpWrite h hi d) ..
    · exact inv_answer h ..
  | txSetLen n =>
    obtain ⟨hn, rfl⟩ | ⟨-, rfl⟩ := txSetLen_next ht
    · exact inv_answer (inv_txSetLen h hn) ..
    · exact inv_answer h ..
  | txEncode tid type val =>
    obtain ⟨hn, hfit, rfl⟩ := txEncode_next ht
    exact inv_answer (inv_writeFrame h (length_frameToSend_bounds hn ..).1 hfit) ..
  | txfRead idx =>
    obtain ⟨-, -, rfl⟩ | ⟨-, rfl⟩ := txfRead_next ht <;> exact inv_answer h ..
  | crc8Clear => cases ht; apply inv_congr h <;> rfl
  | crc8Update d => cases ht; apply inv_congr h <;> rfl
  | setTimeout ms => cases ht; apply inv_congr h <;> rfl
  | softReset => cases ht; exact inv_resetAll s

/-! ## Every command answers, and leaves the host's list alone -/

/-- With the ranges of R22 no buffer access is out of bounds, so every command answers a next state. -/
theorem exec_answers {s : State} (h : Inv s) (i : Instr) : ∃ t, exec i s = .next t := by
  cases i with
  | nop | rxPoll | rxRelease | crc8Clear | crc8Update | setTimeout | softReset => exact ⟨_, rfl⟩
  | rxPush d =>
    have hcount := (beforeByte_rxCount_le s).trans h.countRange
    rw [show exec (.rxPush d) s = _ from execRxPush_eq d s, if_pos hcount]
    split_ifs <;> exact ⟨_, rfl⟩
  | rxRead idx =>
    rw [show exec (.rxRead idx) s = _ from execRxRead_eq idx s]
    by_cases hi : idx.toNat < s.rxCount.toNat
    · rw [if_pos hi, if_pos (hi.trans_le h.countRange)]; exact ⟨_, rfl⟩
    · rw [if_neg hi]; exact ⟨_, rfl⟩
  | txpWrite idx d =>
    rw [show exec (.txpWrite idx d) s = _ from execTxpWrite_eq idx d s]
    split <;> exact ⟨_, rfl⟩
  | txSetLen n =>
    change ∃ t, execTxSetLen n s = .next t
    unfold execTxSetLen
    split <;> exact ⟨_, rfl⟩
  | txEncode tid type val =>
    rw [show exec (.txEncode tid type val) s = _ from execTxEncode_eq tid type val s, if_pos h.lenRange,
      if_pos (length_frameToSend_bounds h.lenRange ..).2]
    exact ⟨_, rfl⟩
  | txfRead idx =>
    rw [show exec (.txfRead idx) s = _ from execTxfRead_eq idx s]
    by_cases hi : idx.toNat < s.txFrameLen.toNat
    · have hsize : idx.toNat < s.cfg.txfSize := by
        obtain h0 | ⟨-, hle⟩ := h.frameRange
        · simp [h0] at hi
        · exact hi.trans_le hle
      rw [if_pos hi, if_pos hsize]; exact ⟨_, rfl⟩
    · rw [if_neg hi]; exact ⟨_, rfl⟩

@[simp] theorem closeFrame_commands (v : Verdict) (s : State) : (closeFrame v s).1.commands = s.commands := by
  cases v <;> rfl

/-- No command touches what the host has still to write. -/
theorem exec_commands {s t : State} {i : Instr} (ht : exec i s = .next t) : t.commands = s.commands := by
  cases i with
  | nop | crc8Clear | crc8Update | setTimeout | softReset => cases ht; rfl
  | rxPoll => cases ht; exact timeoutCheck_commands s
  | rxRelease => cases ht; exact freeHeld_commands s
  | rxPush d =>
    obtain ⟨-, rfl⟩ | ⟨-, -, -, v, -, rfl⟩ | ⟨-, -, -, -, rfl⟩ | ⟨-, -, -, -, rfl⟩ | ⟨-, -, -, -, rfl⟩ :=
      rxPush_next ht <;> simp
  | rxRead idx => obtain ⟨-, -, rfl⟩ | ⟨-, rfl⟩ := rxRead_next ht <;> rfl
  | txpWrite idx d => obtain ⟨-, rfl⟩ | ⟨-, rfl⟩ := txpWrite_next ht <;> rfl
  | txSetLen n => obtain ⟨-, rfl⟩ | ⟨-, rfl⟩ := txSetLen_next ht <;> rfl
  | txEncode tid type val => obtain ⟨-, -, rfl⟩ := txEncode_next ht; rfl
  | txfRead idx => obtain ⟨-, -, rfl⟩ | ⟨-, rfl⟩ := txfRead_next ht <;> rfl

/-! ## The step and the run -/

/-- A step of a state with the invariant answers a next state with the invariant, and takes the host's next write, if there
is one. -/
theorem step_answers {s : State} (h : Inv s) : ∃ t, step s = .next t ∧ Inv t ∧ t.commands = s.commands.tail := by
  obtain ⟨hc, hs⟩ | ⟨c, rest, i, hc, -, hs⟩ | ⟨c, rest, e, hc, -, hs⟩ := step_cases s
  · exact ⟨s, hs, h, by rw [hc]; rfl⟩
  · have hsampled := inv_sampled h c.nowMs rest
    obtain ⟨t, ht⟩ := exec_answers hsampled i
    exact ⟨t, hs.trans ht, inv_exec hsampled ht, by rw [exec_commands ht, hc]; rfl⟩
  · exact ⟨_, hs, inv_answer (inv_sampled h c.nowMs rest) 0 .illegal, by rw [hc]; rfl⟩

/-- `k` steps keep the invariant and take the host's first `k` writes. -/
theorem runFor_answers (k : Nat) {s : State} (h : Inv s) :
    ∃ t, runFor k s = .next t ∧ Inv t ∧ t.commands = s.commands.drop k := by
  induction k generalizing s with
  | zero => exact ⟨s, rfl, h, rfl⟩
  | succ k ih =>
    obtain ⟨u, hu, hinv, hcu⟩ := step_answers h
    obtain ⟨t, ht, hit, hct⟩ := ih hinv
    exact ⟨t, (runFor_succ hu).trans ht, hit, by rw [hct, hcu, List.drop_tail]⟩

/-- Settles O59: a step of a state with the invariant answers and keeps it, so as many steps as the host has writes take
them all. -/
theorem everyProgramRunsToItsEnd : Obligations.EveryProgramRunsToItsEnd := by
  refine ⟨fun s h => ?_, fun s h => ?_⟩
  · obtain ⟨t, ht, -⟩ := step_answers h
    exact ⟨t, ht⟩
  · obtain ⟨t, ht, hinv, hc⟩ := runFor_answers s.commands.length h
    exact ⟨t, ht, hc.trans List.drop_length, hinv⟩

end Sys2Proof.Machine
end

section
/-! The state elements of R22: the invariant, what the host reads of them, which commands write them, frame errors, the held
frame, and what a command does not look at. -/

namespace Sys2Proof.Machine

/-! ## The invariant -/

/-- Settles O58: the state a step answers is the one `step_answers` speaks of, and that has the invariant. -/
theorem everyStepKeepsTheInvariant : Obligations.EveryStepKeepsTheInvariant := by
  intro s t h hst
  obtain ⟨u, hu, hinv, -⟩ := step_answers h
  cases hst.symm.trans hu
  exact hinv

/-- Settles O57: `State.reset` has nothing buffered, and the transmit side of a reset. -/
theorem invariantHoldsAtReset : Obligations.InvariantHoldsAtReset :=
  inv_empty (inv_resetAll State.reset) rfl rfl rfl (iff_of_true rfl rfl) rfl rfl rfl rfl rfl rfl rfl

/-! ## The read port -/

/-- A field laid above the `k` bits of the fields below it counts `2 ^ k` times. -/
theorem toNat_or_shiftLeft {x y : Word} {m n k : Nat} (hx : x.toNat = m) (hy : y.toNat = n) (hm : m < 2 ^ k)
    (hn : n * 2 ^ k < 2 ^ 32) : (x ||| y <<< k).toNat = m + 2 ^ k * n := by
  rw [BitVec.toNat_or, BitVec.toNat_shiftLeft, hx, hy, Nat.shiftLeft_eq, Nat.mod_eq_of_lt hn, Nat.or_comm, Nat.mul_comm,
    ← Nat.two_pow_add_eq_or_of_lt hm, Nat.add_comm]

theorem flagWord_toNat (b : Bool) : (flagWord b).toNat = b.toNat := by cases b <;> rfl

/-- The largest value of each field of `STATUS`. -/
theorem statusFields_le (s : State) :
    s.rxReady.toNat ≤ 1 ∧ s.rxErr.toNat ≤ 1 ∧ (reasonCode s.rxErrCode).toNat ≤ 3 ∧ s.rxEsc.toNat ≤ 1 ∧
      s.rxOvf.toNat ≤ 1 ∧ s.rxDiscard.toNat ≤ 1 ∧ s.txValid.toNat ≤ 1 ∧ (cmdCode s.cmdResult).toNat ≤ 3 :=
  ⟨s.rxReady.toNat_le, s.rxErr.toNat_le, Nat.le_of_lt_succ (BitVec.isLt _), s.rxEsc.toNat_le, s.rxOvf.toNat_le,
    s.rxDiscard.toNat_le, s.txValid.toNat_le, cmdCode_le _⟩

/-- R38 in plain arithmetic: every field of `STATUS` times the value of its lowest bit. -/
theorem status_toNat (s : State) :
    (status s).toNat =
      s.rxReady.toNat + 2 * s.rxErr.toNat + 4 * (reasonCode s.rxErrCode).toNat + 16 * s.rxEsc.toNat +
      32 * s.rxOvf.toNat + 64 * s.rxDiscard.toNat + 128 * s.txValid.toNat + 256 * (cmdCode s.cmdResult).toNat := by
  obtain ⟨hready, herr, hreason, hesc, hovf, hdiscard, hvalid, hcode⟩ := statusFields_le s
  have hreason32 := BitVec.toNat_setWidth_of_le (b := reasonCode s.rxErrCode) (show 2 ≤ 32 by decide)
  have hcode32 := BitVec.toNat_setWidth_of_le (b := cmdCode s.cmdResult) (show 3 ≤ 32 by decide)
  have h1 := toNat_or_shiftLeft (k := 1) (flagWord_toNat s.rxReady) (flagWord_toNat s.rxErr) (by omega) (by omega)
  have h2 := toNat_or_shiftLeft (k := 2) h1 hreason32 (by omega) (by omega)
  have h4 := toNat_or_shiftLeft (k := 4) h2 (flagWord_toNat s.rxEsc) (by omega) (by omega)
  have h5 := toNat_or_shiftLeft (k := 5) h4 (flagWord_toNat s.rxOvf) (by omega) (by omega)
  have h6 := toNat_or_shiftLeft (k := 6) h5 (flagWord_toNat s.rxDiscard) (by omega) (by omega)
  have h7 := toNat_or_shiftLeft (k := 7) h6 (flagWord_toNat s.txValid) (by omega) (by omega)
  exact toNat_or_shiftLeft (k := 8) h7 hcode32 (by omega) (by omega)

theorem status_lt (s : State) : (status s).toNat < 2 ^ 11 := by
  obtain ⟨hready, herr, hreason, hesc, hovf, hdiscard, hvalid, hcode⟩ := statusFields_le s
  rw [status_toNat]
  omega

/-- With the four receive flags that RX_RELEASE clears at 0, bits 3 to 0 and bit 6 of `STATUS` are 0. -/
theorem status_of_cleared {t : State} (hready : t.rxReady = false) (herr : t.rxErr = false) (hcode : t.rxErrCode = none)
    (hdiscard : t.rxDiscard = false) : (status t).toNat % 16 = 0 ∧ (status t).getLsbD 6 = false := by
  obtain ⟨-, -, -, hesc, hovf, -⟩ := statusFields_le t
  have hsum := status_toNat t
  have hnone : (reasonCode none).toNat = 0 := rfl
  rw [hready, herr, hcode, hdiscard, hnone, Bool.toNat_false] at hsum
  rw [BitVec.getLsbD, Nat.testBit_eq_decide_div_mod_eq, decide_eq_false_iff_not]
  omega

/-- Settles O44: the sum of the fields, which is below `2 ^ 11`; RX_RELEASE clears four of them. -/
theorem statusShowsTheFlags : Obligations.StatusShowsTheFlags := by
  refine ⟨status_toNat, fun s k hk => ?_, fun s t h => ?_, rfl⟩
  · exact Nat.testBit_lt_two_pow ((status_lt s).trans_le (Nat.pow_le_pow_right (by decide) hk))
  · cases h
    exact status_of_cleared (freeHeld_rxReady s) rfl rfl rfl

theorem toNat_append_byte {n : Nat} (x : BitVec n) (y : Byte) : (x ++ y).toNat = x.toNat * 2 ^ 8 + y.toNat := by
  rw [BitVec.toNat_append, ← Nat.shiftLeft_add_eq_or_of_lt y.isLt, Nat.shiftLeft_eq]

theorem rxPacked_toNat (s : State) (i0 i1 i2 i3 : Nat) :
    (rxPacked s i0 i1 i2 i3).toNat = (byteAt s .rxb i0).toNat + 2 ^ 8 * (byteAt s .rxb i1).toNat +
      2 ^ 16 * (byteAt s .rxb i2).toNat + 2 ^ 24 * (byteAt s .rxb i3).toNat := by
  simp only [rxPacked, toNat_append_byte]
  omega

/-- Settles O45: four bytes packed with a frame held, and 0 without one. -/
theorem headerViewsShowTheHeldFrame : Obligations.HeaderViewsShowTheHeldFrame := by
  have hinfo (s : State) : readPort s 0x0C = if s.rxReady then rxPacked s 1 2 3 4 else 0 := rfl
  have hcrc (s : State) : readPort s 0x10 = if s.rxReady then rxPacked s 0 5 6 7 else 0 := rfl
  refine ⟨fun s hr => ?_, fun s hr => ?_, rfl, rfl⟩
  · rw [hinfo, hcrc, if_pos hr, if_pos hr]
    exact ⟨rxPacked_toNat .., rxPacked_toNat ..⟩
  · rw [hinfo, hcrc, hr]
    exact ⟨rfl, rfl⟩

/-- An offset that is no multiple of 4, or lies past the last register, reads 0. -/
theorem readPort_unmapped (s : State) {offset : BitVec 8} (h : offset.toNat % 4 ≠ 0 ∨ 0x28 < offset.toNat) :
    readPort s offset = 0 := by
  unfold readPort
  split
  case h_12 => rfl
  all_goals omega

/-- Settles O46: each view is its element at the width of a register. -/
theorem plainViewsAndUnmappedOffsets : Obligations.PlainViewsAndUnmappedOffsets := by
  intro s
  have hrx := (rxBufSize_range s.cfg).2
  have htx := s.cfg.maxTxPayload.isLt
  refine ⟨rfl, ?_, ?_, ?_, ?_, ?_, ?_, ?_, fun _ => readPort_unmapped s⟩
  case refine_6 => exact Nat.mod_eq_of_lt (by omega)
  case refine_7 => exact Nat.mod_eq_of_lt (by omega)
  all_goals exact BitVec.toNat_setWidth_of_le (by decide)

/-! ## The frame of each command -/

theorem timeoutCheck_frame (s : State) :
    timeoutCheck s = { s with
      rxCount := (timeoutCheck s).rxCount
      rxEsc := (timeoutCheck s).rxEsc
      rxOvf := (timeoutCheck s).rxOvf
      rxDiscard := (timeoutCheck s).rxDiscard } := by
  unfold timeoutCheck
  split <;> rfl

/-- Closing a frame, whatever the verdict, touches six elements (R97). -/
theorem closeFrame_frame (v : Verdict) (s : State) :
    (closeFrame v s).1 = { s with
      rxCount := (closeFrame v s).1.rxCount
      rxEsc := (closeFrame v s).1.rxEsc
      rxOvf := (closeFrame v s).1.rxOvf
      rxReady := (closeFrame v s).1.rxReady
      rxErr := (closeFrame v s).1.rxErr
      rxErrCode := (closeFrame v s).1.rxErrCode } := by
  cases v <;> rfl

/-- R22: what `RX_PUSH` can write. -/
theorem rxPush_frame {s t : State} {d : Byte} (h : exec (.rxPush d) s = .next t) :
    t = { s with
      rxCount := t.rxCount
      rxEsc := t.rxEsc
      rxOvf := t.rxOvf
      rxReady := t.rxReady
      rxErr := t.rxErr
      rxErrCode := t.rxErrCode
      rxDiscard := t.rxDiscard
      rxLastMs := t.rxLastMs
      rxb := t.rxb
      result := t.result
      cmdResult := t.cmdResult } := by
  obtain ⟨-, rfl⟩ | ⟨-, -, -, v, -, rfl⟩ | ⟨-, -, -, -, rfl⟩ | ⟨-, -, -, -, rfl⟩ | ⟨-, -, -, -, rfl⟩ := rxPush_next h
  · rfl
  · rw [closeFrame_frame, beforeByte, timeoutCheck_frame]; rfl
  all_goals rw [beforeByte, timeoutCheck_frame]; rfl

/-- R22: what `RX_POLL` can write. -/
theorem rxPoll_frame {s t : State} (h : exec .rxPoll s = .next t) :
    t = { s with
      rxCount := t.rxCount
      rxEsc := t.rxEsc
      rxOvf := t.rxOvf
      rxDiscard := t.rxDiscard
      result := t.result
      cmdResult := t.cmdResult } := by
  cases h
  rw [timeoutCheck_frame]; rfl

/-- R22: what `RX_RELEASE` can write. -/
theorem rxRelease_frame {s t : State} (h : exec .rxRelease s = .next t) :
    t = { s with
      rxCount := t.rxCount
      rxReady := t.rxReady
      rxErr := t.rxErr
      rxErrCode := t.rxErrCode
      rxDiscard := t.rxDiscard
      result := t.result
      cmdResult := t.cmdResult } := by
  cases h
  unfold freeHeld
  split <;> rfl

/-- The commands that may write the decoder's elements: `rx_timeout` is the host's to set and not among them. -/
def writesDecoder : Instr → Bool
  | .rxPush _ | .rxPoll | .rxRelease | .softReset => true
  | .nop | .rxRead _ | .txpWrite _ _ | .txSetLen _ | .txEncode _ _ _ | .txfRead _ | .crc8Clear | .crc8Update _
  | .setTimeout _ => false

/-- R22: what all the other commands can write between them. -/
theorem exec_frame_of_not_writesDecoder {s t : State} {i : Instr} (h : exec i s = .next t)
    (hi : writesDecoder i = false) :
    t = { s with
      rxTimeout := t.rxTimeout
      txLen := t.txLen
      txFrameLen := t.txFrameLen
      txValid := t.txValid
      crcAcc := t.crcAcc
      txp := t.txp
      txf := t.txf
      result := t.result
      cmdResult := t.cmdResult } := by
  cases i with
  | rxPush | rxPoll | rxRelease | softReset => simp [writesDecoder] at hi
  | txpWrite idx d => obtain ⟨-, rfl⟩ | ⟨-, rfl⟩ := txpWrite_next h <;> rfl
  | txEncode tid type val => obtain ⟨-, -, rfl⟩ := txEncode_next h; rfl
  | txSetLen n => obtain ⟨-, rfl⟩ | ⟨-, rfl⟩ := txSetLen_next h <;> rfl
  | rxRead idx => obtain ⟨-, -, rfl⟩ | ⟨-, rfl⟩ := rxRead_next h <;> rfl
  | txfRead idx => obtain ⟨-, -, rfl⟩ | ⟨-, rfl⟩ := txfRead_next h <;> rfl
  | nop | crc8Clear | crc8Update | setTimeout => cases h; rfl

theorem byteAt_rxb (s : State) (j : Nat) :
    byteAt s .rxb j = (Memory.read? s.rxb j).getD (Config.unwritten .rxb s.draws j) := rfl

theorem byteAt_txp (s : State) (j : Nat) :
    byteAt s .txp j = (Memory.read? s.txp j).getD (Config.unwritten .txp s.draws j) := rfl

theorem byteAt_txf (s : State) (j : Nat) :
    byteAt s .txf j = (Memory.read? s.txf j).getD (Config.unwritten .txf s.draws j) := rfl

/-- Settles O47: command by command, from the frame of each. -/
theorem elementsChangeOnlyByTheirCommands : Obligations.ElementsChangeOnlyByTheirCommands := by
  intro s t i h hreset
  cases i with
  | softReset => exact absurd rfl hreset
  | rxPush d => rw [rxPush_frame h]; simp [byteAt_txp, byteAt_txf]
  | rxPoll => rw [rxPoll_frame h]; simp [byteAt_rxb, byteAt_txp, byteAt_txf]
  | rxRelease => rw [rxRelease_frame h]; simp [byteAt_rxb, byteAt_txp, byteAt_txf]
  | txpWrite idx d => obtain ⟨-, rfl⟩ | ⟨-, rfl⟩ := txpWrite_next h <;> simp [byteAt_rxb, byteAt_txf]
  | txEncode tid type val => obtain ⟨-, -, rfl⟩ := txEncode_next h; simp [byteAt_rxb, byteAt_txp]
  | txSetLen n => obtain ⟨-, rfl⟩ | ⟨-, rfl⟩ := txSetLen_next h <;> simp [byteAt_rxb, byteAt_txp, byteAt_txf]
  | rxRead idx => obtain ⟨-, -, rfl⟩ | ⟨-, rfl⟩ := rxRead_next h <;> simp [byteAt_rxb, byteAt_txp, byteAt_txf]
  | txfRead idx => obtain ⟨-, -, rfl⟩ | ⟨-, rfl⟩ := txfRead_next h <;> simp [byteAt_rxb, byteAt_txp, byteAt_txf]
  | nop | crc8Clear | crc8Update | setTimeout => cases h; simp [byteAt_rxb, byteAt_txp, byteAt_txf]

theorem exec_cfg_nowMs {s t : State} {i : Instr} (h : exec i s = .next t) : t.cfg = s.cfg ∧ t.nowMs = s.nowMs := by
  cases i with
  | rxPush d => rw [rxPush_frame h]; exact ⟨rfl, rfl⟩
  | rxPoll => rw [rxPoll_frame h]; exact ⟨rfl, rfl⟩
  | rxRelease => rw [rxRelease_frame h]; exact ⟨rfl, rfl⟩
  | softReset => cases h; exact ⟨rfl, rfl⟩
  | nop | rxRead | txpWrite | txSetLen | txEncode | txfRead | crc8Clear | crc8Update | setTimeout =>
    rw [exec_frame_of_not_writesDecoder h rfl]; exact ⟨rfl, rfl⟩

/-- Settles O48, from the frame of each command. -/
theorem noCommandChangesTheConfiguration : Obligations.NoCommandChangesTheConfiguration := by
  intro s t i h
  obtain ⟨hcfg, hnow⟩ := exec_cfg_nowMs h
  exact ⟨hcfg, hnow, exec_commands h⟩

/-! ## Frame errors (R27, R28, R103) -/

/-- A word of at most 18 bits is not -1. -/
theorem ne_minusOne_of_lt {w : Word} (h : w.toNat < 2 ^ 18) : w ≠ 0xFFFFFFFF := by
  rintro rfl
  exact absurd h (by decide)

theorem setWidth_byte_ne_minusOne (v : Byte) : v.setWidth 32 ≠ (0xFFFFFFFF : Word) :=
  ne_minusOne_of_lt (by rw [BitVec.toNat_setWidth_of_le (by decide)]; exact v.isLt.trans (by decide))

/-- No command but `RX_PUSH` answers -1: it answers 0 or 1, a byte, or a length. -/
theorem result_ne_minusOne {s t : State} {i : Instr} (h : exec i s = .next t) (hpush : ∀ d, i ≠ .rxPush d) :
    t.result ≠ 0xFFFFFFFF := by
  have hzero : (0 : Word) ≠ 0xFFFFFFFF := by decide
  cases i with
  | rxPush d => exact absurd rfl (hpush d)
  | rxPoll => cases h; cases hs : timedOut s <;> simp [flagWord]
  | rxRead idx =>
    obtain ⟨-, -, rfl⟩ | ⟨-, rfl⟩ := rxRead_next h
    exacts [setWidth_byte_ne_minusOne _, hzero]
  | txfRead idx =>
    obtain ⟨-, -, rfl⟩ | ⟨-, rfl⟩ := txfRead_next h
    exacts [setWidth_byte_ne_minusOne _, hzero]
  | crc8Update d => cases h; exact setWidth_byte_ne_minusOne _
  | txEncode tid type val =>
    obtain ⟨-, hfit, rfl⟩ := txEncode_next h
    have hmax := (txfSize_range s.cfg).2
    refine ne_minusOne_of_lt ((Nat.mod_le ..).trans_lt ?_)
    omega
  | txpWrite idx d => obtain ⟨-, rfl⟩ | ⟨-, rfl⟩ := txpWrite_next h <;> exact hzero
  | txSetLen n => obtain ⟨-, rfl⟩ | ⟨-, rfl⟩ := txSetLen_next h <;> exact hzero
  | nop | rxRelease | crc8Clear | setTimeout | softReset => cases h; exact hzero

/-- A push either closes a frame in error, and says so with -1, or leaves `rx_err` and its reason alone. -/
theorem rxPush_frameError {s t : State} {d : Byte} (h : exec (.rxPush d) s = .next t) :
    (t.result = 0xFFFFFFFF ∧ d = 0x7E ∧ t.rxErr = true ∧ t.rxErrCode ≠ none ∧ t.rxReady = false ∧ t.rxCount = 0) ∨
    (t.result ≠ 0xFFFFFFFF ∧ t.rxErr = s.rxErr ∧ t.rxErrCode = s.rxErrCode) := by
  obtain ⟨-, rfl⟩ | ⟨hr, hd, -, v, -, rfl⟩ | ⟨-, -, -, -, rfl⟩ | ⟨-, -, -, -, rfl⟩ | ⟨-, -, -, -, rfl⟩ := rxPush_next h
  case inr.inl =>
    cases v with
    | rejected r => left; simp [closeFrame, outcomeWord, hd, hr]
    | empty | accepted => right; simp [closeFrame, outcomeWord]
  all_goals right; simp

/-- Settles O50: a push by `rxPush_frameError`; no other command answers -1 or touches `rx_err`. -/
theorem minusOneIsAFrameError : Obligations.MinusOneIsAFrameError := by
  intro s t i h hrelease hreset
  by_cases hpush : ∃ d, i = .rxPush d
  · obtain ⟨d, rfl⟩ := hpush
    obtain ⟨hminus, rfl, herror⟩ | ⟨hminus, hkept⟩ := rxPush_frameError h
    · exact ⟨fun _ => ⟨rfl, herror⟩, absurd hminus⟩
    · exact ⟨fun hm => absurd hm hminus, fun _ => hkept⟩
  · have hresult := result_ne_minusOne h (not_exists.1 hpush)
    obtain ⟨-, -, -, -, herr, hcode, -⟩ := elementsChangeOnlyByTheirCommands s t i h hreset
    have hother : ¬ ((∃ d, i = .rxPush d) ∨ i = .rxRelease) := not_or.2 ⟨hpush, hrelease⟩
    exact ⟨fun hm => absurd hm hresult, fun _ => ⟨not_not.1 (mt herr hother), not_not.1 (mt hcode hother)⟩⟩

/-! ## The held frame (R26) -/

/-- While a frame is held a push is BUSY (R103). -/
theorem rxPush_of_held {s : State} (hr : s.rxReady = true) (d : Byte) : exec (.rxPush d) s = .next (cmdError .busy s) :=
  if_pos hr

/-- While a frame is held there is no partial frame, so the timeout check does nothing. -/
theorem timeoutCheck_of_held {s : State} (hr : s.rxReady = true) : timeoutCheck s = s :=
  timeoutCheck_of_not_stale fun hs => absurd (hr.symm.trans hs.1.1) (by decide)

/-- Every command but `RX_RELEASE` and `SOFT_RESET` leaves a held frame and its bytes alone. -/
theorem exec_keeps_held {s t : State} {i : Instr} (h : exec i s = .next t) (hr : s.rxReady = true)
    (hrelease : i ≠ .rxRelease) (hreset : i ≠ .softReset) :
    t.rxReady = true ∧ t.rxCount = s.rxCount ∧ buffered t = buffered s := by
  cases i with
  | rxRelease => exact absurd rfl hrelease
  | softReset => exact absurd rfl hreset
  | rxPush d => cases (rxPush_of_held hr d).symm.trans h; exact ⟨hr, rfl, rfl⟩
  | rxPoll => cases h; rw [timeoutCheck_of_held hr]; exact ⟨hr, rfl, rfl⟩
  | nop | rxRead | txpWrite | txSetLen | txEncode | txfRead | crc8Clear | crc8Update | setTimeout =>
    rw [exec_frame_of_not_writesDecoder h rfl]; exact ⟨hr, rfl, rfl⟩

/-- `RX_RELEASE` and `SOFT_RESET` leave no frame held. -/
theorem exec_frees_held {s t : State} {i : Instr} (h : exec i s = .next t) (hi : i = .rxRelease ∨ i = .softReset) :
    t.rxReady = false := by
  obtain rfl | rfl := hi
  · cases h; exact freeHeld_rxReady s
  · cases h; rfl

/-- A push after which a frame is held that was not held before is the delimiter of an accepted frame (R97). -/
theorem rxPush_holds {s t : State} {d : Byte} (h : exec (.rxPush d) s = .next t) (hs : s.rxReady = false)
    (ht : t.rxReady = true) : d = 0x7E ∧ t.result = 1 := by
  obtain ⟨hr, -⟩ | ⟨-, hd, -, v, -, rfl⟩ | ⟨-, -, -, -, rfl⟩ | ⟨-, -, -, -, rfl⟩ | ⟨-, -, -, -, rfl⟩ := rxPush_next h
  case inl => simp [hs] at hr
  case inr.inl =>
    cases v with
    | accepted => exact ⟨hd, rfl⟩
    | empty | rejected => simp [closeFrame, hs] at ht
  all_goals simp [hs] at ht

/-- Settles O51: what each command does with a held frame, and that of the two that write `rx_ready` only a push sets it. -/
theorem heldFrameStaysUntilReleased : Obligations.HeldFrameStaysUntilReleased := by
  intro s t i h
  have hkeeps (ht : t.rxReady = true) : i ≠ .rxRelease ∧ i ≠ .softReset :=
    not_or.1 fun hi => absurd ((exec_frees_held h hi).symm.trans ht) (by decide)
  refine ⟨fun hs ht => ?_, fun hs ht => ?_, fun hs ht => ?_⟩
  · by_contra hi
    obtain ⟨hrelease, hreset⟩ := not_or.1 hi
    have hheld := (exec_keeps_held h hs hrelease hreset).1
    exact absurd (ht.symm.trans hheld) (by decide)
  · obtain ⟨hrelease, hreset⟩ := hkeeps ht
    obtain ⟨-, -, -, hready, -⟩ := elementsChangeOnlyByTheirCommands s t i h hreset
    obtain ⟨d, rfl⟩ | hi := hready (by rw [hs, ht]; decide)
    · obtain ⟨rfl, hresult⟩ := rxPush_holds h hs ht
      exact ⟨rfl, hresult⟩
    · exact absurd hi hrelease
  · obtain ⟨hrelease, hreset⟩ := hkeeps ht
    exact (exec_keeps_held h hs hrelease hreset).2

/-! ## What a command does not look at (R20, R35) -/

/-- The state at another time and with another accumulator. -/
def State.withTimeAndAcc (now : Word) (acc : Byte) (s : State) : State := { s with nowMs := now, crcAcc := acc }

/-- The commands that look at the time or the accumulator, or write the accumulator. -/
def looksAtTimeOrAcc : Instr → Bool
  | .rxPush _ | .rxPoll | .crc8Clear | .crc8Update _ | .softReset => true
  | .nop | .rxRelease | .rxRead _ | .txpWrite _ _ | .txSetLen _ | .txEncode _ _ _ | .txfRead _ | .setTimeout _ => false

theorem freeHeld_withTimeAndAcc (s : State) (now : Word) (acc : Byte) :
    freeHeld (s.withTimeAndAcc now acc) = (freeHeld s).withTimeAndAcc now acc := by
  rw [freeHeld, freeHeld, apply_ite (State.withTimeAndAcc now acc)]; rfl

/-- The other commands do the same at every time and with every accumulator. -/
theorem exec_withTimeAndAcc {s t : State} {i : Instr} (h : exec i s = .next t) (hi : looksAtTimeOrAcc i = false)
    (now : Word) (acc : Byte) : exec i (s.withTimeAndAcc now acc) = .next (t.withTimeAndAcc now acc) := by
  cases i with
  | rxPush | rxPoll | crc8Clear | crc8Update | softReset => simp [looksAtTimeOrAcc] at hi
  | nop | setTimeout => cases h; rfl
  | rxRelease =>
    cases h
    change Host.Outcome.next (complete 0 (clearSticky (freeHeld (s.withTimeAndAcc now acc)))) = _
    rw [freeHeld_withTimeAndAcc]; rfl
  | rxRead idx =>
    rw [show exec (.rxRead idx) _ = _ from execRxRead_eq idx _]
    obtain ⟨hcount, hsize, rfl⟩ | ⟨hcount, rfl⟩ := rxRead_next h
    · exact (if_pos hcount).trans (if_pos hsize)
    · exact if_neg hcount.not_gt
  | txfRead idx =>
    rw [show exec (.txfRead idx) _ = _ from execTxfRead_eq idx _]
    obtain ⟨hlen, hsize, rfl⟩ | ⟨hlen, rfl⟩ := txfRead_next h
    · exact (if_pos hlen).trans (if_pos hsize)
    · exact if_neg hlen.not_gt
  | txpWrite idx d =>
    rw [show exec (.txpWrite idx d) _ = _ from execTxpWrite_eq idx d _]
    obtain ⟨hidx, rfl⟩ | ⟨hidx, rfl⟩ := txpWrite_next h
    · exact if_pos hidx
    · exact if_neg hidx.not_gt
  | txSetLen n =>
    obtain ⟨hn, rfl⟩ | ⟨hn, rfl⟩ := txSetLen_next h
    · exact if_pos (decide_eq_true hn)
    · exact if_neg (mt of_decide_eq_true hn.not_ge)
  | txEncode tid type val =>
    rw [show exec (.txEncode tid type val) _ = _ from execTxEncode_eq tid type val _]
    obtain ⟨hlen, hfit, rfl⟩ := txEncode_next h
    exact (if_pos hlen).trans (if_pos hfit)

/-- No command but the accumulator's own and `SOFT_RESET` writes the accumulator. -/
theorem exec_crcAcc {s t : State} {i : Instr} (h : exec i s = .next t) (hclear : i ≠ .crc8Clear)
    (hupdate : ∀ d, i ≠ .crc8Update d) (hreset : i ≠ .softReset) : t.crcAcc = s.crcAcc := by
  obtain ⟨-, -, -, -, -, -, -, -, -, -, -, -, hacc, -⟩ := elementsChangeOnlyByTheirCommands s t i h hreset
  exact not_not.1 (mt hacc (not_or.2 ⟨hclear, not_exists.2 hupdate⟩))

/-- Settles O53: the three commands that write the accumulator, then all those that look at neither. -/
theorem onlyPushAndPollLookAtTheTime : Obligations.OnlyPushAndPollLookAtTheTime := by
  intro s t i now h hpoll hpush
  cases i with
  | rxPush d => exact absurd rfl (hpush d)
  | rxPoll => exact absurd rfl hpoll
  | crc8Clear | crc8Update | softReset => cases h; rfl
  | nop | rxRelease | rxRead | txpWrite | txSetLen | txEncode | txfRead | setTimeout =>
    have hacc : t.crcAcc = s.crcAcc := exec_crcAcc h (by simp) (by simp) (by simp)
    have ht : t.withTimeAndAcc now s.crcAcc = { t with nowMs := now } := by rw [← hacc]; rfl
    exact ht ▸ exec_withTimeAndAcc h rfl now s.crcAcc

theorem timeoutCheck_withAcc (s : State) (c : Byte) :
    timeoutCheck { s with crcAcc := c } = { timeoutCheck s with crcAcc := c } := by
  by_cases hs : Stale s
  · rw [timeoutCheck_of_stale hs]; exact timeoutCheck_of_stale (s := { s with crcAcc := c }) hs
  · rw [timeoutCheck_of_not_stale hs]; exact timeoutCheck_of_not_stale (s := { s with crcAcc := c }) hs

theorem closeFrame_withAcc (v : Verdict) (s : State) (c : Byte) :
    closeFrame v { s with crcAcc := c } = ({ (closeFrame v s).1 with crcAcc := c }, (closeFrame v s).2) := by
  cases v <;> rfl

/-- A push does the same with every accumulator. -/
theorem rxPush_withAcc {s t : State} {d : Byte} (h : exec (.rxPush d) s = .next t) (c : Byte) :
    exec (.rxPush d) { s with crcAcc := c } = .next { t with crcAcc := c } := by
  have hbefore : beforeByte { s with crcAcc := c } = { beforeByte s with crcAcc := c } := by
    rw [beforeByte, timeoutCheck_withAcc]; rfl
  rw [show exec (.rxPush d) _ = _ from execRxPush_eq d _, hbefore]
  obtain ⟨hr, rfl⟩ | ⟨hr, rfl, hc, v, hv, rfl⟩ | ⟨hr, hd, he, hx, rfl⟩ | ⟨hr, hd, hx, hc, rfl⟩ | ⟨hr, hd, hx, hc, rfl⟩ :=
    rxPush_next h
  · exact if_pos hr
  all_goals refine (if_neg (Bool.eq_false_iff.1 hr)).trans ?_
  · refine (if_pos rfl).trans ((if_pos hc).trans ?_)
    rw [closeFrame_withAcc]
    cases hv; rfl
  all_goals refine (if_neg hd).trans ?_
  · exact if_pos ⟨he, hx⟩
  · exact (if_neg hx).trans (if_pos hc)
  · exact (if_neg hx).trans (if_neg hc.not_gt)

/-- Settles O54: the two commands that look at the time, then all those that look at neither. -/
theorem accumulatorIsIndependent : Obligations.AccumulatorIsIndependent := by
  intro s t i c h hclear hupdate hreset
  refine ⟨exec_crcAcc h hclear hupdate hreset, ?_⟩
  cases i with
  | crc8Clear => exact absurd rfl hclear
  | crc8Update d => exact absurd rfl (hupdate d)
  | softReset => exact absurd rfl hreset
  | rxPush d => exact rxPush_withAcc h c
  | rxPoll =>
    cases h
    change Host.Outcome.next (complete _ (timeoutCheck { s with crcAcc := c })) = _
    rw [timeoutCheck_withAcc]; rfl
  | nop | rxRelease | rxRead | txpWrite | txSetLen | txEncode | txfRead | setTimeout =>
    have hnow : t.nowMs = s.nowMs := (exec_cfg_nowMs h).2
    have ht : t.withTimeAndAcc s.nowMs c = { t with crcAcc := c } := by rw [← hnow]; rfl
    exact ht ▸ exec_withTimeAndAcc h rfl s.nowMs c

end Sys2Proof.Machine
end

section
/-! The memory frame (R55): the buffer bytes that the storing commands leave as they are. In order: one write and a run of
writes, the bookkeeping of a push, the three commands. -/

namespace Sys2Proof.Machine

/-! ## What a write leaves -/

/-- One write leaves every other byte of every buffer. -/
theorem byteAt_setMem_write_of_ne (s : State) {b b' : BufferId} {i j : Nat} (v : Byte) (h : ¬ (b' = b ∧ j = i)) :
    byteAt (s.setMem b (Memory.write (s.mem b) i v)) b' j = byteAt s b' j := by
  by_cases hb : b' = b
  · subst hb
    rw [byteAt_setMem_write, if_neg fun hj => h ⟨rfl, hj⟩]
  · exact byteAt_setMem_other s _ hb j

/-- A run of writes from index 0 leaves every byte of every buffer but the first ones of its own. -/
theorem byteAt_setMem_writeAll_of_not_lt (s : State) {b b' : BufferId} {vs : List Byte} {j : Nat}
    (h : ¬ (b' = b ∧ j < vs.length)) :
    byteAt (s.setMem b (Memory.writeAll (s.mem b) 0 vs)) b' j = byteAt s b' j := by
  by_cases hb : b' = b
  · subst hb
    rw [byteAt_setMem_writeAll, dif_neg fun hj => h ⟨rfl, hj⟩]
  · exact byteAt_setMem_other s _ hb j

/-! ## What a push does to memory -/

theorem byteAt_beforeByte (s : State) (b : BufferId) (j : Nat) : byteAt (beforeByte s) b j = byteAt s b j :=
  byteAt_congr (by cases b <;> simp [State.mem]) (beforeByte_draws s) j

theorem byteAt_closeFrame (v : Verdict) (s : State) (b : BufferId) (j : Nat) :
    byteAt (closeFrame v s).1 b j = byteAt s b j := by
  cases v <;> rfl

/-- A push leaves memory alone, or it finds a free place for a data byte and makes one write, at `rx_count` (R94, R95). -/
theorem rxPush_memory {s t : State} {d : Byte} (h : exec (.rxPush d) s = .next t) :
    (∀ b j, byteAt t b j = byteAt s b j) ∨
    (s.rxReady = false ∧ d ≠ 0x7E ∧ ¬ ((beforeByte s).rxEsc = false ∧ d = 0x7D) ∧
      (beforeByte s).rxCount.toNat < s.cfg.rxBufSize ∧
      ∃ v, ∀ b j, byteAt t b j =
        byteAt (s.setMem .rxb (Memory.write (s.mem .rxb) (beforeByte s).rxCount.toNat v)) b j) := by
  obtain ⟨-, rfl⟩ | ⟨-, -, -, v, -, rfl⟩ | ⟨-, -, -, -, rfl⟩ | ⟨hr, hd, hx, hc, rfl⟩ | ⟨-, -, -, -, rfl⟩ := rxPush_next h
  case inr.inr.inr.inl =>
    refine .inr ⟨hr, hd, hx, hc, if (beforeByte s).rxEsc then d ^^^ 0x20 else d, fun b j => ?_⟩
    refine byteAt_congr ?_ ?_ j
    · cases b <;> simp [State.mem, State.setMem]
    · exact beforeByte_draws s
  all_goals refine .inl fun b j => ?_
  · rfl
  · exact (byteAt_closeFrame v _ b j).trans (byteAt_beforeByte s b j)
  all_goals exact byteAt_beforeByte s b j

/-! ## The storing commands -/

/-- Settles O49: a push by `rxPush_memory`; the two transmit commands are one write and one run of writes. -/
theorem storingCommandsKeepTheOtherBytes : Obligations.StoringCommandsKeepTheOtherBytes := by
  refine ⟨fun s t d h => ?_, fun s t idx d h => ?_, fun s t tid type val h b j hj => ?_⟩
  · obtain hkept | ⟨hr, hd, hx, hc, v, hstored⟩ := rxPush_memory h
    · exact ⟨fun b j _ => hkept b j, fun _ => hkept⟩
    · refine ⟨fun b j hj => (hstored b j).trans (byteAt_setMem_write_of_ne s v hj), fun hnothing => ?_⟩
      obtain hheld | hflag | hesc | hfull := hnothing
      · exact absurd (hr.symm.trans hheld) Bool.false_ne_true
      · exact absurd hflag hd
      · exact absurd hesc hx
      · exact absurd hc hfull.not_gt
  · obtain ⟨hi, rfl⟩ | ⟨-, rfl⟩ := txpWrite_next h
    · exact ⟨fun b j hj => byteAt_setMem_write_of_ne s d hj, fun hrange => absurd hi hrange.not_gt⟩
    · exact ⟨fun _ _ _ => rfl, fun _ _ _ => rfl⟩
  · obtain ⟨-, -, rfl⟩ := txEncode_next h
    exact byteAt_setMem_writeAll_of_not_lt s hj

end Sys2Proof.Machine
end

section
/-! The encoding of commands (R63 to R68): which words are commands, the opcode map against the decoder, and the round trip
between a command and its word. In order: a word cut into its fields, the row of a command, the decoder, the encoder, the
statements. -/

namespace Sys2Proof

open BitVec Sys2Proof.Machine

/-! ## A word cut into fields (R64, R65) -/

/-- A field that lies in must-be-zero bits is zero. -/
theorem field_eq_zero {w m : Word} (h : w &&& m = 0#32) (start len : Nat)
    (hm : m.extractLsb' start len = allOnes len) : w.extractLsb' start len = 0#len := by
  simpa [extractLsb'_and, hm] using congrArg (extractLsb' start len) h

/-- Two fields side by side are one field. -/
theorem field_append_field (w : Word) (start high low : Nat) :
    w.extractLsb' (start + low) high ++ w.extractLsb' start low = w.extractLsb' start (high + low) :=
  extractLsb'_append_extractLsb'_eq_extractLsb' rfl

theorem fieldD8_append (hi : BitVec 16) (d8 : BitVec 8) (zero op : BitVec 4) :
    fieldD8 (hi ++ d8 ++ zero ++ op) = d8 := by
  rw [fieldD8, extractLsb'_append_eq_of_le (by decide), extractLsb'_append_eq_of_le (by decide),
    extractLsb'_append_eq_of_add_le (by decide), extractLsb'_eq_self]

theorem fieldIdx18_append (idx18 : BitVec 18) (zero : BitVec 10) (op : BitVec 4) :
    fieldIdx18 (idx18 ++ zero ++ op) = idx18 := by
  rw [fieldIdx18, extractLsb'_append_eq_of_le (by decide), extractLsb'_append_eq_of_le (by decide), extractLsb'_eq_self]

theorem fieldIdx16_append (idx16 : BitVec 16) (d8 : BitVec 8) (zero op : BitVec 4) :
    fieldIdx16 (idx16 ++ d8 ++ zero ++ op) = idx16 := by
  rw [fieldIdx16, extractLsb'_append_eq_of_le (by decide), extractLsb'_append_eq_of_le (by decide),
    extractLsb'_append_eq_of_le (by decide), extractLsb'_eq_self]

theorem fieldLen16_append (len16 : BitVec 16) (zero : BitVec 12) (op : BitVec 4) :
    fieldLen16 (len16 ++ zero ++ op) = len16 := by
  rw [fieldLen16, extractLsb'_append_eq_of_le (by decide), extractLsb'_append_eq_of_le (by decide), extractLsb'_eq_self]

theorem fieldImm24_append (imm24 : BitVec 24) (zero op : BitVec 4) : fieldImm24 (imm24 ++ zero ++ op) = imm24 := by
  rw [fieldImm24, extractLsb'_append_eq_of_le (by decide), extractLsb'_append_eq_of_le (by decide), extractLsb'_eq_self]

theorem fieldType3_append (hi : BitVec 8) (val5 : BitVec 5) (type3 : BitVec 3) (tid8 : BitVec 8) (zero op : BitVec 4) :
    fieldType3 (hi ++ val5 ++ type3 ++ tid8 ++ zero ++ op) = type3 := by
  rw [fieldType3, extractLsb'_append_eq_of_le (by decide), extractLsb'_append_eq_of_le (by decide),
    extractLsb'_append_eq_of_le (by decide), extractLsb'_append_eq_of_add_le (by decide), extractLsb'_eq_self]

theorem fieldVal5_append (hi : BitVec 8) (val5 : BitVec 5) (type3 : BitVec 3) (tid8 : BitVec 8) (zero op : BitVec 4) :
    fieldVal5 (hi ++ val5 ++ type3 ++ tid8 ++ zero ++ op) = val5 := by
  rw [fieldVal5, extractLsb'_append_eq_of_le (by decide), extractLsb'_append_eq_of_le (by decide),
    extractLsb'_append_eq_of_le (by decide), extractLsb'_append_eq_of_le (by decide),
    extractLsb'_append_eq_of_add_le (by decide), extractLsb'_eq_self]

/-! The layouts of R64: a word with zero must-be-zero bits is its fields put together, most significant first. -/

section

variable {w : Word} {op : BitVec 4} (hop : fieldOp w = op)
include hop

theorem append_fieldsN (hz : w &&& Format.N.mbz = 0#32) : 0#28 ++ op = w := by
  rw [← hop, ← field_eq_zero hz 4 28 rfl, fieldOp, field_append_field w 0 28 4]
  exact extractLsb'_eq_self

theorem append_fieldsB (hz : w &&& Format.B.mbz = 0#32) : 0#16 ++ fieldD8 w ++ 0#4 ++ op = w := by
  rw [← hop, ← field_eq_zero hz 16 16 rfl, ← field_eq_zero hz 4 4 rfl, fieldD8, fieldOp, field_append_field w 8 16 8,
    field_append_field w 4 24 4, field_append_field w 0 28 4]
  exact extractLsb'_eq_self

theorem append_fieldsH (hz : w &&& Format.H.mbz = 0#32) :
    0#8 ++ fieldVal5 w ++ fieldType3 w ++ fieldTid8 w ++ 0#4 ++ op = w := by
  rw [← hop, ← field_eq_zero hz 24 8 rfl, ← field_eq_zero hz 4 4 rfl, fieldVal5, fieldType3, fieldTid8, fieldOp,
    field_append_field w 19 8 5, field_append_field w 16 13 3, field_append_field w 8 16 8, field_append_field w 4 24 4,
    field_append_field w 0 28 4]
  exact extractLsb'_eq_self

theorem append_fieldsI (hz : w &&& Format.I.mbz = 0#32) : fieldIdx18 w ++ 0#10 ++ op = w := by
  rw [← hop, ← field_eq_zero hz 4 10 rfl, fieldIdx18, fieldOp, field_append_field w 4 18 10,
    field_append_field w 0 28 4]
  exact extractLsb'_eq_self

theorem append_fieldsW (hz : w &&& Format.W.mbz = 0#32) : fieldIdx16 w ++ fieldD8 w ++ 0#4 ++ op = w := by
  rw [← hop, ← field_eq_zero hz 4 4 rfl, fieldIdx16, fieldD8, fieldOp, field_append_field w 8 16 8,
    field_append_field w 4 24 4, field_append_field w 0 28 4]
  exact extractLsb'_eq_self

theorem append_fieldsL (hz : w &&& Format.L.mbz = 0#32) : fieldLen16 w ++ 0#12 ++ op = w := by
  rw [← hop, ← field_eq_zero hz 4 12 rfl, fieldLen16, fieldOp, field_append_field w 4 16 12,
    field_append_field w 0 28 4]
  exact extractLsb'_eq_self

theorem append_fieldsT (hz : w &&& Format.T.mbz = 0#32) : fieldImm24 w ++ 0#4 ++ op = w := by
  rw [← hop, ← field_eq_zero hz 4 4 rfl, fieldImm24, fieldOp, field_append_field w 4 24 4, field_append_field w 0 28 4]
  exact extractLsb'_eq_self

end

/-- A field in plain arithmetic. -/
theorem toNat_field (w : Word) (start len : Nat) :
    (w.extractLsb' start len).toNat = w.toNat / 2 ^ start % 2 ^ len := by
  rw [extractLsb'_toNat, Nat.shiftRight_eq_div_pow]

/-- A field that reaches the top of the word needs no remainder. -/
theorem toNat_topField (w : Word) (start len : Nat) (h : start + len = 32) :
    (w.extractLsb' start len).toNat = w.toNat / 2 ^ start := by
  rw [toNat_field, Nat.mod_eq_of_lt]
  rw [Nat.div_lt_iff_lt_mul (Nat.two_pow_pos start), ← Nat.pow_add, Nat.add_comm, h]
  exact w.isLt

/-- `VAL5` above `TYPE3` is one field of 8 bits, header byte 1 (R65, R73). -/
theorem hb1_fields (w : Word) : hb1 (fieldType3 w) (fieldVal5 w) = w.extractLsb' 16 8 := field_append_field w 16 5 3

/-! ## The row of a command (R66) -/

/-- The opcode of a command. -/
def Instr.op : Instr → BitVec 4
  | .nop => 0x0#4
  | .rxPush _ => 0x1#4
  | .rxPoll => 0x2#4
  | .rxRelease => 0x3#4
  | .rxRead _ => 0x4#4
  | .txpWrite _ _ => 0x5#4
  | .txSetLen _ => 0x6#4
  | .txEncode _ _ _ => 0x7#4
  | .txfRead _ => 0x8#4
  | .crc8Clear => 0x9#4
  | .crc8Update _ => 0xA#4
  | .setTimeout _ => 0xB#4
  | .softReset => 0xC#4

/-- The format of a command's word. -/
def Instr.format : Instr → Format
  | .rxPush _ | .crc8Update _ => .B
  | .txEncode _ _ _ => .H
  | .rxRead _ | .txfRead _ => .I
  | .txpWrite _ _ => .W
  | .txSetLen _ => .L
  | .setTimeout _ => .T
  | .nop | .rxPoll | .rxRelease | .crc8Clear | .softReset => .N

/-- The row of a command: its mask is the format's must-be-zero bits and the opcode's four, its match bits the opcode. -/
def Instr.row (i : Instr) : OpcodeRow :=
  { mnemonic := i.mnemonic
    op := i.op
    format := i.format
    matchBits := i.op.setWidth 32
    mask := i.format.mbz ||| 0xF#32 }

theorem opcodeTable_eq : opcodeTable =
    [Instr.nop, .rxPush 0, .rxPoll, .rxRelease, .rxRead 0, .txpWrite 0 0, .txSetLen 0, .txEncode 0 0 0, .txfRead 0,
      .crc8Clear, .crc8Update 0, .setTimeout 0, .softReset].map Instr.row := rfl

/-- The rows stand in the order of their opcodes. -/
theorem opcodeTable_op (i : Instr) : opcodeTable[i.op.toNat]? = some i.row := by
  rw [opcodeTable_eq]
  cases i <;> rfl

theorem row_mem (i : Instr) : i.row ∈ opcodeTable := List.mem_of_getElem? (opcodeTable_op i)

/-- Every row of the opcode map is a command's. -/
theorem exists_row {r : OpcodeRow} (hr : r ∈ opcodeTable) : ∃ i : Instr, i.row = r := by
  rw [opcodeTable_eq] at hr
  obtain ⟨i, -, hi⟩ := List.mem_map.1 hr
  exact ⟨i, hi⟩

/-- Two commands with one opcode have one row. -/
theorem row_eq_of_op_eq {i j : Instr} (h : i.op = j.op) : i.row = j.row :=
  Option.some.inj ((opcodeTable_op i).symm.trans (h ▸ opcodeTable_op j))

/-- Two commands with one mnemonic have one row. -/
theorem row_eq_of_mnemonic_eq {i j : Instr} (h : i.mnemonic = j.mnemonic) : i.row = j.row :=
  List.inj_on_of_nodup_map (f := OpcodeRow.mnemonic) (l := opcodeTable) (by decide) (row_mem i) (row_mem j) h

/-- The opcodes are the numbers below 13. -/
theorem op_lt (i : Instr) : i.op.toNat < 13 := (List.getElem?_eq_some_iff.1 (opcodeTable_op i)).1

theorem exists_op {n : Nat} (h : n < 13) : ∃ i : Instr, i.op.toNat = n := by
  have hop : ∀ k : Fin 13, (opcodeTable[k]).op.toNat = k := by decide
  obtain ⟨i, hi⟩ := exists_row (List.getElem_mem (l := opcodeTable) h)
  exact ⟨i, (congrArg (fun r => r.op.toNat) hi).trans (hop ⟨n, h⟩)⟩

/-- The opcode's bits, in place. -/
theorem and_fifteen (w : Word) : w &&& 0xF#32 = (fieldOp w).setWidth 32 := by
  apply BitVec.eq_of_toNat_eq
  rw [toNat_and, toNat_setWidth_of_le (by decide), fieldOp_toNat]
  exact Nat.and_two_pow_sub_one_eq_mod w.toNat 4

theorem extract_mbz (f : Format) : f.mbz.extractLsb' 0 4 = 0#4 := by cases f <;> rfl

theorem mask_and_mbz (f : Format) : (f.mbz ||| 0xF#32) &&& f.mbz = f.mbz := by cases f <;> rfl

/-- The match bits of a row have no 1 in a must-be-zero bit. -/
theorem matchBits_and_mbz (i : Instr) : i.row.matchBits &&& i.format.mbz = 0#32 := by
  cases i <;> dsimp only [Instr.row, Instr.op, Instr.format] <;> rfl

/-- A word shows the match bits of a command's row exactly when it has the command's opcode and zero must-be-zero bits. -/
theorem shows_row_iff (i : Instr) (w : Word) :
    w &&& i.row.mask = i.row.matchBits ↔ fieldOp w = i.op ∧ w &&& i.format.mbz = 0#32 := by
  have hmask : i.row.mask = i.format.mbz ||| 0xF#32 := rfl
  have hmatch : i.row.matchBits = i.op.setWidth 32 := rfl
  constructor
  · intro h
    constructor
    · have hlow := congrArg (extractLsb' 0 4) h
      rw [hmask, hmatch, extractLsb'_and, extractLsb'_or, extract_mbz, extractLsb'_setWidth_of_le (by decide),
        extractLsb'_eq_self, BitVec.zero_or] at hlow
      exact (and_allOnes (x := fieldOp w)).symm.trans hlow
    · calc w &&& i.format.mbz
          = w &&& i.row.mask &&& i.format.mbz := by rw [BitVec.and_assoc, hmask, mask_and_mbz]
        _ = 0#32 := by rw [h, matchBits_and_mbz]
  · rintro ⟨hop, hz⟩
    rw [hmask, hmatch, and_or_distrib_left, hz, and_fifteen, hop, BitVec.zero_or]

/-! ## The decoder -/

/-- The command with its operands taken from the fields of a word. -/
def Instr.withFields (w : Word) : Instr → Instr
  | .nop => .nop
  | .rxPush _ => .rxPush (fieldD8 w)
  | .rxPoll => .rxPoll
  | .rxRelease => .rxRelease
  | .rxRead _ => .rxRead (fieldIdx18 w)
  | .txpWrite _ _ => .txpWrite (fieldIdx16 w) (fieldD8 w)
  | .txSetLen _ => .txSetLen (fieldLen16 w)
  | .txEncode _ _ _ => .txEncode (fieldTid8 w) (fieldType3 w) (fieldVal5 w)
  | .txfRead _ => .txfRead (fieldIdx18 w)
  | .crc8Clear => .crc8Clear
  | .crc8Update _ => .crc8Update (fieldD8 w)
  | .setTimeout _ => .setTimeout (fieldImm24 w)
  | .softReset => .softReset

theorem mnemonic_withFields (w : Word) (i : Instr) : (i.withFields w).mnemonic = i.mnemonic := by cases i <;> rfl

/-- A word with a command's opcode and zero must-be-zero bits decodes to that command, with the word's fields. -/
theorem decode_of_op {w : Word} {i : Instr} (hop : fieldOp w = i.op) (hz : w &&& i.format.mbz = 0#32) :
    decode w = .ok (i.withFields w) := by
  rw [decode, hop]
  cases i <;> exact accept_of_zero hz

/-- What a word decodes to has the word's opcode, leaves its must-be-zero bits zero, and has its fields as operands. -/
theorem fields_of_decode {w : Word} {i : Instr} (h : decode w = .ok i) :
    fieldOp w = i.op ∧ w &&& i.format.mbz = 0#32 ∧ i.withFields w = i := by
  have hop {n : BitVec 4} (hn : w.toNat % 16 = n.toNat) : fieldOp w = n := eq_of_toNat_eq ((fieldOp_toNat w).trans hn)
  obtain ⟨hn, hz, rfl⟩ | ⟨hn, hz, rfl⟩ | ⟨hn, hz, rfl⟩ | ⟨hn, hz, rfl⟩ | ⟨hn, hz, rfl⟩ | ⟨hn, hz, rfl⟩ | ⟨hn, hz, rfl⟩ |
    ⟨hn, hz, rfl⟩ | ⟨hn, hz, rfl⟩ | ⟨hn, hz, rfl⟩ | ⟨hn, hz, rfl⟩ | ⟨hn, hz, rfl⟩ | ⟨hn, hz, rfl⟩ := decode_ok h
  all_goals exact ⟨hop hn, hz, rfl⟩

/-- A word decodes to a command exactly when it shows the match bits of the command's row, and has its operands as fields. -/
theorem decode_eq_ok_iff {w : Word} {i : Instr} :
    decode w = .ok i ↔ w &&& i.row.mask = i.row.matchBits ∧ i.withFields w = i := by
  rw [shows_row_iff]
  constructor
  · intro h
    obtain ⟨hop, hz, hi⟩ := fields_of_decode h
    exact ⟨⟨hop, hz⟩, hi⟩
  · rintro ⟨⟨hop, hz⟩, hi⟩
    exact (decode_of_op hop hz).trans (congrArg _ hi)

/-- A word shows the match bits of a command's row exactly when it decodes to a command of that mnemonic. -/
theorem shows_row_iff_decode (i : Instr) (w : Word) :
    w &&& i.row.mask = i.row.matchBits ↔ ∃ j, decode w = .ok j ∧ j.mnemonic = i.mnemonic := by
  constructor
  · intro h
    obtain ⟨hop, hz⟩ := (shows_row_iff i w).1 h
    exact ⟨_, decode_of_op hop hz, mnemonic_withFields w i⟩
  · rintro ⟨j, hj, hm⟩
    rw [← row_eq_of_mnemonic_eq hm]
    exact (decode_eq_ok_iff.1 hj).1

/-- Two rows that match one word are one row. -/
theorem row_unique {r r' : OpcodeRow} {w : Word} (hr : r ∈ opcodeTable) (hr' : r' ∈ opcodeTable)
    (h : w &&& r.mask = r.matchBits) (h' : w &&& r'.mask = r'.matchBits) : r = r' := by
  obtain ⟨i, rfl⟩ := exists_row hr
  obtain ⟨j, rfl⟩ := exists_row hr'
  exact row_eq_of_op_eq (((shows_row_iff i w).1 h).1.symm.trans ((shows_row_iff j w).1 h').1)

/-- A word is not ILLEGAL exactly when it decodes to a command. -/
theorem not_illegalWord_iff {w : Word} : ¬ IllegalWord w ↔ ∃ i, decode w = .ok i := by
  constructor
  · intro h
    obtain ⟨hop, hz⟩ := not_or.1 h
    obtain ⟨i, hi⟩ := exists_op (not_le.1 hop)
    have hmbz : w &&& i.format.mbz = 0#32 := by
      by_contra hne
      exact hz ⟨i.row, row_mem i, hi, hne⟩
    exact ⟨_, decode_of_op (eq_of_toNat_eq ((fieldOp_toNat w).trans hi.symm)) hmbz⟩
  · rintro ⟨i, hi⟩ hill
    obtain ⟨hop, hz, -⟩ := fields_of_decode hi
    have hn : i.op.toNat = w.toNat % 16 := hop ▸ fieldOp_toNat w
    obtain hreserved | ⟨r, hr, hrop, hne⟩ := hill
    · exact absurd (op_lt i) (hn ▸ hreserved).not_gt
    · obtain ⟨j, rfl⟩ := exists_row hr
      have hij : j.op = i.op := eq_of_toNat_eq (hrop.trans hn.symm)
      exact hne ((congrArg OpcodeRow.format (row_eq_of_op_eq hij)) ▸ hz)

theorem illegalWord_iff {w : Word} : IllegalWord w ↔ ∃ e, decode w = .error e := by
  rw [← not_iff_not, not_illegalWord_iff]
  cases decode w <;> simp

/-! ## The encoder -/

/-- The fields of a command's word are its operands. -/
theorem withFields_encode (i : Instr) : i.withFields (encode i) = i := by
  cases i with
  | nop | rxPoll | rxRelease | crc8Clear | softReset => rfl
  | rxPush d8 => exact congrArg Instr.rxPush (fieldD8_append _ _ _ _)
  | rxRead idx18 => exact congrArg Instr.rxRead (fieldIdx18_append _ _ _)
  | txpWrite idx16 d8 => exact congrArg₂ Instr.txpWrite (fieldIdx16_append _ _ _ _) (fieldD8_append _ _ _ _)
  | txSetLen len16 => exact congrArg Instr.txSetLen (fieldLen16_append _ _ _)
  | txEncode tid8 type3 val5 =>
    have htid : fieldTid8 (encode (.txEncode tid8 type3 val5)) = tid8 := fieldD8_append (0#8 ++ val5 ++ type3) _ _ _
    rw [Instr.withFields, htid, encode, fieldType3_append, fieldVal5_append]
  | txfRead idx18 => exact congrArg Instr.txfRead (fieldIdx18_append _ _ _)
  | crc8Update d8 => exact congrArg Instr.crc8Update (fieldD8_append _ _ _ _)
  | setTimeout imm24 => exact congrArg Instr.setTimeout (fieldImm24_append _ _ _)

/-- The word of a command with a word's own fields is that word, if it has the command's opcode and zero must-be-zero
bits. -/
theorem encode_withFields {w : Word} {i : Instr} (hop : fieldOp w = i.op) (hz : w &&& i.format.mbz = 0#32) :
    encode (i.withFields w) = w := by
  cases i with
  | nop | rxPoll | rxRelease | crc8Clear | softReset => exact append_fieldsN hop hz
  | rxPush | crc8Update => exact append_fieldsB hop hz
  | rxRead | txfRead => exact append_fieldsI hop hz
  | txpWrite => exact append_fieldsW hop hz
  | txSetLen => exact append_fieldsL hop hz
  | txEncode => exact append_fieldsH hop hz
  | setTimeout => exact append_fieldsT hop hz

/-- The word of every command is in the row of its mnemonic (`Laws.InRow`, per command). -/
theorem inRow (i : Instr) : Laws.InRow.Statement i := by
  cases i with
  | nop => exact Laws.InRow.nop
  | rxPush d8 => exact Laws.InRow.rxPush d8
  | rxPoll => exact Laws.InRow.rxPoll
  | rxRelease => exact Laws.InRow.rxRelease
  | rxRead idx18 => exact Laws.InRow.rxRead idx18
  | txpWrite idx16 d8 => exact Laws.InRow.txpWrite idx16 d8
  | txSetLen len16 => exact Laws.InRow.txSetLen len16
  | txEncode tid8 type3 val5 => exact Laws.InRow.txEncode tid8 type3 val5
  | txfRead idx18 => exact Laws.InRow.txfRead idx18
  | crc8Clear => exact Laws.InRow.crc8Clear
  | crc8Update d8 => exact Laws.InRow.crc8Update d8
  | setTimeout imm24 => exact Laws.InRow.setTimeout imm24
  | softReset => exact Laws.InRow.softReset

theorem encode_shows_row (i : Instr) : encode i &&& i.row.mask = i.row.matchBits := by
  obtain ⟨r, hr, hm, hshows⟩ := inRow i
  obtain ⟨j, rfl⟩ := exists_row hr
  rwa [row_eq_of_mnemonic_eq hm] at hshows

/-! ## The statements -/

/-- Settles O6: the word is in the command's row, and its fields are the operands. -/
theorem decodeOfEncodeIsTheCommand : Obligations.DecodeOfEncodeIsTheCommand := fun i =>
  decode_eq_ok_iff.2 ⟨encode_shows_row i, withFields_encode i⟩

/-- Settles O3: `illegalWord_iff` for the decoder, the map by way of what decodes, and the step on a word that does not. -/
theorem illegalWordsOnlyReportIllegal : Obligations.IllegalWordsOnlyReportIllegal := by
  refine ⟨fun w => illegalWord_iff, fun w hw r hr => ?_, fun w hw => ?_, fun s w t hw => ?_⟩
  · obtain ⟨i, rfl⟩ := exists_row hr
    refine beq_false_of_ne fun hshows => ?_
    obtain ⟨j, hj, -⟩ := (shows_row_iff_decode i w).1 hshows
    exact not_illegalWord_iff.2 ⟨j, hj⟩ hw
  · obtain ⟨i, hi⟩ := not_illegalWord_iff.1 hw
    have hshows := (decode_eq_ok_iff.1 hi).1
    exact ⟨i.row, row_mem i, beq_iff_eq.2 hshows, fun r' hr' h' => row_unique hr' (row_mem i) (beq_iff_eq.1 h') hshows⟩
  · obtain ⟨e, he⟩ := illegalWord_iff.1 hw
    exact step_offer_error he

/-- Settles O4: every row is a command's, and two rows that match one word have its opcode. -/
theorem decoderFollowsTheOpcodeMap : Obligations.DecoderFollowsTheOpcodeMap := by
  refine ⟨fun r hr w => ?_, fun r hr r' hr' w => row_unique hr hr'⟩
  obtain ⟨i, rfl⟩ := exists_row hr
  exact shows_row_iff_decode i w

/-- Settles O5: the operands are the word's fields, and a field is a quotient and, below the top of the word, a remainder. -/
theorem operandsAreTheirFields : Obligations.OperandsAreTheirFields := by
  intro w i h
  obtain ⟨hop, -, hi⟩ := fields_of_decode h
  refine ⟨⟨i.row, row_mem i, rfl, (congrArg BitVec.toNat hop).symm.trans (fieldOp_toNat w)⟩, ?_⟩
  rw [← hi]
  cases i with
  | nop | rxPoll | rxRelease | crc8Clear | softReset => trivial
  | rxPush | crc8Update => exact toNat_field w 8 8
  | rxRead | txfRead => exact toNat_topField w 14 18 rfl
  | txpWrite => exact ⟨toNat_topField w 16 16 rfl, toNat_field w 8 8⟩
  | txSetLen => exact toNat_topField w 16 16 rfl
  | setTimeout => exact toNat_topField w 8 24 rfl
  | txEncode =>
    have hhb1 : (hb1 (fieldType3 w) (fieldVal5 w)).toNat = w.toNat / 2 ^ 16 % 2 ^ 8 := by rw [hb1_fields, toNat_field]
    have htype := toNat_field w 16 3
    have hval := toNat_field w 19 5
    refine ⟨toNat_field w 8 8, htype, hval, hhb1, ?_⟩
    rw [hhb1, fieldVal5, fieldType3, hval, htype]
    omega

/-- Settles O7: what a word decodes to has its opcode and its fields, and the layouts of R64 leave no other bit. -/
theorem legalWordIsTheEncodingOfItsCommand : Obligations.LegalWordIsTheEncodingOfItsCommand := by
  intro w i h
  obtain ⟨hop, hz, hi⟩ := fields_of_decode h
  rw [← hi]
  exact encode_withFields hop hz

/-- Settles O8: each word is evaluated. -/
theorem specWordsDecodeToTheirCommands : Obligations.SpecWordsDecodeToTheirCommands :=
  ⟨rfl, rfl, rfl, rfl, rfl, rfl, rfl, rfl, rfl, rfl, rfl, rfl, rfl⟩

end Sys2Proof
end

section
/-! The assembler's statements (R69), its pseudo-instructions (R70), and the length of a frame on the wire (R76). -/

namespace Sys2Proof.Machine

/-! ## Statements that are commands (R69) -/

/-- The operands of a command as numbers, in the order of R69. -/
def operandsOf : Instr → List Nat
  | .rxPush d8 | .crc8Update d8 => [d8.toNat]
  | .rxRead idx18 | .txfRead idx18 => [idx18.toNat]
  | .txpWrite idx16 d8 => [idx16.toNat, d8.toNat]
  | .txSetLen len16 => [len16.toNat]
  | .txEncode tid8 type3 val5 => [tid8.toNat, type3.toNat, val5.toNat]
  | .setTimeout imm24 => [imm24.toNat]
  | .nop | .rxPoll | .rxRelease | .crc8Clear | .softReset => []

/-- A command written as a statement. -/
def statementFor (i : Instr) : Asm := { mnemonic := i.mnemonic, operands := operandsOf i }

/-- No operand place is filled by no operand. -/
theorem operandsFit_nil {vs : List Nat} (h : operandsFit [] vs = true) : vs = [] := by
  cases vs with
  | nil => rfl
  | cons v vs => simp [operandsFit] at h

/-- An operand place is filled by the number of a value of its width. -/
theorem operandsFit_cons {n : Nat} {ws vs : List Nat} (h : operandsFit (n :: ws) vs = true) :
    ∃ (x : BitVec n) (rest : List Nat), vs = x.toNat :: rest ∧ operandsFit ws rest = true := by
  cases vs with
  | nil => simp [operandsFit] at h
  | cons v vs =>
    obtain ⟨hv, hrest⟩ : v < 2 ^ n ∧ operandsFit ws vs = true := by simpa [operandsFit] using h
    exact ⟨BitVec.ofNat n v, vs, by rw [BitVec.toNat_ofNat, Nat.mod_eq_of_lt hv], hrest⟩

theorem operandsFit_one {n : Nat} {vs : List Nat} (h : operandsFit [n] vs = true) : ∃ x : BitVec n, vs = [x.toNat] := by
  obtain ⟨x, rest, rfl, hrest⟩ := operandsFit_cons h
  exact ⟨x, by rw [operandsFit_nil hrest]⟩

/-- The number of a value fits the value's width. -/
@[simp] theorem operandsFit_toNat {n : Nat} (x : BitVec n) (ws vs : List Nat) :
    operandsFit (n :: ws) (x.toNat :: vs) = operandsFit ws vs := by
  rw [operandsFit, decide_eq_true x.isLt, Bool.true_and]

/-- A command's own statement is well formed. -/
theorem wellFormed_statementFor (i : Instr) : (statementFor i).wellFormed = true := by
  cases i with
  | nop | rxPoll | rxRelease | crc8Clear | softReset => rfl
  | rxPush x | crc8Update x | rxRead x | txfRead x | txSetLen x | setTimeout x => exact operandsFit_toNat x [] []
  | txpWrite idx16 d8 => exact (operandsFit_toNat idx16 [8] [d8.toNat]).trans (operandsFit_toNat d8 [] [])
  | txEncode tid8 type3 val5 =>
    exact (operandsFit_toNat tid8 [3, 5] [type3.toNat, val5.toNat]).trans
      ((operandsFit_toNat type3 [5] [val5.toNat]).trans (operandsFit_toNat val5 [] []))

/-- A command's own statement is that command's. -/
theorem commandOf_statementFor (i : Instr) : commandOf (statementFor i) = some i := by
  rw [commandOf, if_pos (wellFormed_statementFor i)]
  cases i with
  | nop | rxPoll | rxRelease | crc8Clear | softReset => rfl
  | _ => simp only [statementFor, operandsOf, Instr.mnemonic, BitVec.ofNat_toNat, BitVec.setWidth_eq]

/-- Every well-formed statement is a command's. -/
theorem exists_statementFor {a : Asm} (h : a.wellFormed = true) : ∃ i, a = statementFor i := by
  obtain ⟨m, vs⟩ := a
  rw [Asm.wellFormed] at h
  split at h
  case h_2 => cases h
  rename_i ws hws
  simp only [operandWidths] at hws
  split at hws <;> cases hws
  case h_1 => obtain rfl := operandsFit_nil h; exact ⟨.nop, rfl⟩
  case h_2 => obtain ⟨d8, rfl⟩ := operandsFit_one h; exact ⟨.rxPush d8, rfl⟩
  case h_3 => obtain rfl := operandsFit_nil h; exact ⟨.rxPoll, rfl⟩
  case h_4 => obtain rfl := operandsFit_nil h; exact ⟨.rxRelease, rfl⟩
  case h_5 => obtain ⟨idx18, rfl⟩ := operandsFit_one h; exact ⟨.rxRead idx18, rfl⟩
  case h_6 =>
    obtain ⟨idx16, rest, rfl, hrest⟩ := operandsFit_cons h
    obtain ⟨d8, rfl⟩ := operandsFit_one hrest
    exact ⟨.txpWrite idx16 d8, rfl⟩
  case h_7 => obtain ⟨len16, rfl⟩ := operandsFit_one h; exact ⟨.txSetLen len16, rfl⟩
  case h_8 =>
    obtain ⟨tid8, rest, rfl, hrest⟩ := operandsFit_cons h
    obtain ⟨type3, rest, rfl, hval⟩ := operandsFit_cons hrest
    obtain ⟨val5, rfl⟩ := operandsFit_one hval
    exact ⟨.txEncode tid8 type3 val5, rfl⟩
  case h_9 => obtain ⟨idx18, rfl⟩ := operandsFit_one h; exact ⟨.txfRead idx18, rfl⟩
  case h_10 => obtain rfl := operandsFit_nil h; exact ⟨.crc8Clear, rfl⟩
  case h_11 => obtain ⟨d8, rfl⟩ := operandsFit_one h; exact ⟨.crc8Update d8, rfl⟩
  case h_12 => obtain ⟨imm24, rfl⟩ := operandsFit_one h; exact ⟨.setTimeout imm24, rfl⟩
  case h_13 => obtain rfl := operandsFit_nil h; exact ⟨.softReset, rfl⟩

/-- A statement is a command exactly when it is that command's own statement. -/
theorem commandOf_eq_some_iff {a : Asm} {i : Instr} : commandOf a = some i ↔ a = statementFor i := by
  constructor
  · intro h
    have hw : a.wellFormed = true := by
      by_contra hw
      rw [commandOf, if_neg hw] at h
      cases h
    obtain ⟨j, rfl⟩ := exists_statementFor hw
    rw [Option.some.inj ((commandOf_statementFor j).symm.trans h)]
  · rintro rfl
    exact commandOf_statementFor i

/-- Settles O9: what is well formed is a command's own statement, and nothing else assembles. -/
theorem assemblerRefusesOperandsThatDoNotFit : Obligations.AssemblerRefusesOperandsThatDoNotFit := by
  refine ⟨fun a => ?_, fun a i h => ?_⟩
  · cases hw : a.wellFormed with
    | false => rw [commandOf, if_neg (by rw [hw]; decide)]; rfl
    | true =>
      obtain ⟨i, rfl⟩ := exists_statementFor hw
      rw [commandOf_statementFor]
      rfl
  · obtain rfl := commandOf_eq_some_iff.1 h
    exact ⟨rfl, by cases i <;> rfl⟩

/-! ## Pseudo-instructions (R70) -/

/-- The numbers of a non-empty list of bytes are those bytes. -/
theorem bytesOf_map_toNat {bs : List Byte} (h : bs ≠ []) : bytesOf (bs.map BitVec.toNat) = some bs := by
  have hfit : (bs.map BitVec.toNat).all (fun v => decide (v < 256)) = true := by
    simpa using fun b _ => b.isLt
  rw [bytesOf, if_pos ⟨by simpa using h, hfit⟩, List.map_map]
  simp [Function.comp_def]

/-- There is one TXP_WRITE per byte, at the next index. -/
theorem length_txpWritesFrom (bs : List Byte) (n : Nat) : (txpWritesFrom n bs).length = bs.length := by
  induction bs generalizing n with
  | nil => rfl
  | cons b bs ih => rw [txpWritesFrom, List.length_cons, ih, List.length_cons]

theorem txpWritesFrom_getElem? (bs : List Byte) (n i : Nat) :
    (txpWritesFrom n bs)[i]? = bs[i]?.map fun b => Instr.txpWrite (BitVec.ofNat 16 (n + i)) b := by
  induction bs generalizing n i with
  | nil => rfl
  | cons b bs ih =>
    cases i with
    | zero => rfl
    | succ i => rw [txpWritesFrom, List.getElem?_cons_succ, List.getElem?_cons_succ, ih, Nat.succ_add_eq_add_succ]

/-- Settles O10: the operands are the bytes, and TXP_LOAD's writes are followed from index 0. -/
theorem pseudoInstructionsExpand : Obligations.PseudoInstructionsExpand := by
  intro bs hbs
  have hbytes := bytesOf_map_toNat hbs
  refine ⟨congrArg (Option.map expandRxPushs) hbytes, congrArg (Option.map expandCrc8Bytes) hbytes, fun hlen => ?_⟩
  have hload : commandsOf ⟨"TXP_LOAD", bs.map BitVec.toNat⟩ = some (expandTxpLoad bs) := by
    change (if (bs.map BitVec.toNat).length < 65536 then (bytesOf (bs.map BitVec.toNat)).map expandTxpLoad else none) = _
    rw [if_pos (by rw [List.length_map]; omega), hbytes]
    rfl
  have hwrites := length_txpWritesFrom bs 0
  refine ⟨expandTxpLoad bs, hload, ?_, fun i b hi => ?_, ?_⟩
  · rw [expandTxpLoad, List.length_append, hwrites, List.length_singleton]
  · have hlt : i < bs.length := (List.getElem?_eq_some_iff.1 hi).1
    rw [expandTxpLoad, List.getElem?_append_left (by omega), txpWritesFrom_getElem?, hi, Nat.zero_add]
    rfl
  · rw [expandTxpLoad, List.getElem?_append_right hwrites.le, hwrites, Nat.sub_self]
    rfl

/-! ## The length of a frame (R76) -/

/-- Two delimiters, the header, the payload, and one byte more for each that is escaped. -/
theorem length_buildFrame (hb1 tid : Byte) (p : List Byte) :
    (buildFrame hb1 tid p).length =
      2 + 8 + p.length + (buildHeader hb1 tid p ++ p).countP (fun b => b == 0x7E || b == 0x7D) := by
  simp only [buildFrame, List.length_append, List.length_singleton, length_escapeAll, length_buildHeader]
  omega

/-- Settles O18: the count is `length_buildFrame`, the bounds are `length_buildFrame_bounds`, and the ACK of transaction 0
has nothing to escape. -/
theorem frameLengthCountsTheEscapes : Obligations.FrameLengthCountsTheEscapes := by
  refine ⟨fun hb1 tid p => ?_, 0, ?_⟩
  · obtain ⟨hmin, hmax⟩ := length_buildFrame_bounds hb1 tid p
    exact ⟨length_buildFrame hb1 tid p, by omega, hmax⟩
  · have hcrc : crc8 [0x55, 0, 0, 0, 0, 0, 0] = 0x3C := by decide +kernel
    have hheader : buildHeader (hb1 typeAck 0) 0 [] = [0x55, 0, 0, 0, 0, 0, 0, 0x3C] :=
      congrArg (fun c => [0x55, 0, 0, 0, 0, 0, 0, c]) hcrc
    rw [length_buildFrame, hheader]
    rfl

end Sys2Proof.Machine
end

section
/-! CRC8 (R77 to R80) and the accumulator commands (R82, R83). In order: CRC8 by the table, CRC8 as a remainder, the
consequences of R80, the steps of the two commands, the statements. -/

namespace Sys2Proof.Machine

/-! ## CRC8 by the table (R78, R79) -/

/-- The table as R78 prints it: sixteen rows of sixteen entries. -/
theorem length_crc8Table : crc8Table.length = 256 := by
  rw [crc8Table]
  simp only [List.length_append, List.length_cons, List.length_nil]

/-- The CRC of one byte is its table entry. -/
theorem crc8_singleton (b : Byte) : crc8 [b] = crc8Lookup b := by
  rw [crc8Lookup_eq]
  exact congrArg (Nat.repeat crc8Shift 8) BitVec.zero_xor

/-- The byte-at-a-time form, one step of R77 being one of the table. -/
theorem crc8_eq_foldl_crc8TableByte (l : List Byte) : crc8 l = l.foldl crc8TableByte 0x00 := by
  have hstep : crc8TableByte = crc8Byte := funext₂ crc8TableByte_eq
  rw [crc8, hstep]

/-- Settles O11: 256 entries, each the CRC of its byte, and a step by the table is a step of R77. -/
theorem tableFormComputesTheCrc : Obligations.TableFormComputesTheCrc :=
  ⟨length_crc8Table, fun b => (crc8_singleton b).symm, crc8_eq_foldl_crc8TableByte⟩

/-! ## CRC8 as a remainder (R77) -/

section

open Polynomial

/-- The bits of a byte, most significant first. -/
def bitsOf (b : Byte) : List Bool :=
  [b.getLsbD 7, b.getLsbD 6, b.getLsbD 5, b.getLsbD 4, b.getLsbD 3, b.getLsbD 2, b.getLsbD 1, b.getLsbD 0]

/-- The polynomial of a message that goes on with one more bit. -/
noncomputable def appendBit (p : Polynomial (ZMod 2)) (bit : Bool) : Polynomial (ZMod 2) := p * X + if bit then 1 else 0

/-- The polynomial of a message that goes on with these bytes. -/
noncomputable def appendBytes (p : Polynomial (ZMod 2)) (l : List Byte) : Polynomial (ZMod 2) :=
  (l.flatMap bitsOf).foldl appendBit p

theorem foldl_appendBit_bitsOf (p : Polynomial (ZMod 2)) (b : Byte) :
    (bitsOf b).foldl appendBit p = p * X ^ 8 + bytePoly b := by
  rw [bytePoly_eq]
  simp only [bitsOf, List.foldl_cons, List.foldl_nil, appendBit, bitPoly]
  ring

theorem appendBytes_cons (p : Polynomial (ZMod 2)) (b : Byte) (l : List Byte) :
    appendBytes p (b :: l) = appendBytes (p * X ^ 8 + bytePoly b) l := by
  rw [appendBytes, List.flatMap_cons, List.foldl_append, foldl_appendBit_bitsOf, appendBytes]

/-- One byte keeps the CRC register the remainder of the message so far, times `x^8`. -/
theorem crc8Byte_remainder {p q : Polynomial (ZMod 2)} {c : Byte} (h : p * X ^ 8 = q * generator + bytePoly c) (b : Byte) :
    ∃ r, (p * X ^ 8 + bytePoly b) * X ^ 8 = r * generator + bytePoly (crc8Byte c b) := by
  obtain ⟨r, hr⟩ := bytePoly_repeat_crc8Shift 8 (c ^^^ b)
  refine ⟨q * X ^ 8 + r, ?_⟩
  calc (p * X ^ 8 + bytePoly b) * X ^ 8
      = q * X ^ 8 * generator + bytePoly (c ^^^ b) * X ^ 8 := by rw [h, bytePoly_xor]; ring
    _ = (q * X ^ 8 + r) * generator + bytePoly (crc8Byte c b) := by rw [hr, crc8Byte]; ring

/-- So does a list of bytes. -/
theorem foldl_crc8Byte_remainder {p q : Polynomial (ZMod 2)} {c : Byte} (h : p * X ^ 8 = q * generator + bytePoly c)
    (l : List Byte) : ∃ r, appendBytes p l * X ^ 8 = r * generator + bytePoly (l.foldl crc8Byte c) := by
  induction l generalizing p q c with
  | nil => exact ⟨q, h⟩
  | cons b l ih =>
    obtain ⟨r, hr⟩ := crc8Byte_remainder h b
    rw [appendBytes_cons]
    exact ih hr

theorem bytePoly_zero : bytePoly 0x00 = 0 := by simp [bytePoly]

end

/-- Settles O12: the empty message has remainder 0, and every byte keeps the register the remainder. -/
theorem crcIsTheRemainderByTheGenerator : Obligations.CrcIsTheRemainderByTheGenerator := fun l =>
  foldl_crc8Byte_remainder (p := 0) (q := 0) (c := 0x00) (by rw [bytePoly_zero]; ring) l

/-! ## The consequences of R80 -/

theorem crc8_zero_cons (l : List Byte) : crc8 (0x00 :: l) = crc8 l := by
  rw [crc8, List.foldl_cons, crc8Byte_zero, crc8]

/-- CRC8 is linear over exclusive or, for lists of one length. -/
theorem crc8_zipWith_xor {a b : List Byte} (h : a.length = b.length) :
    crc8 (List.zipWith (· ^^^ ·) a b) = crc8 a ^^^ crc8 b :=
  foldl_crc8Byte_xor a b h 0x00 0x00

/-- A change confined to one byte changes the CRC: the register differs after that byte, and the rest keeps it different. -/
theorem crc8_ne_of_byte_ne (pre post : List Byte) {b b' : Byte} (h : b ≠ b') :
    crc8 (pre ++ b :: post) ≠ crc8 (pre ++ b' :: post) := by
  intro heq
  simp only [crc8, List.foldl_append, List.foldl_cons] at heq
  exact h (crc8Byte_inj_right (foldl_crc8Byte_inj heq))

/-- The check value of R80, by the table. -/
theorem crc8_checkString : crc8 [0x31, 0x32, 0x33, 0x34, 0x35, 0x36, 0x37, 0x38, 0x39] = 0xF4 := by
  rw [crc8_eq_foldl_crc8TableByte]
  decide

/-- Settles O13: the four laws above, with the CRC of no bytes and of the check string. -/
theorem crcConsequences : Obligations.CrcConsequences :=
  ⟨⟨rfl, fun hb1 tid => by rw [buildHeader_eq]; rfl⟩, crc8_singleton, crc8_zero_cons [], crc8_zero_cons,
    fun _ _ => crc8_zipWith_xor, fun pre post _ _ => crc8_ne_of_byte_ne pre post,
    crc8_checkString⟩

/-! ## Words of a command's opcode that are ILLEGAL, and words of commands (R67, R107) -/

/-- A word with a command's opcode and a 1 in a must-be-zero bit of its format is an ILLEGAL step. -/
theorem illegalWithBits (i : Instr) : IllegalWithBits i.op.toNat i.format.mbz := by
  obtain ⟨-, -, -, hstep⟩ := illegalWordsOnlyReportIllegal
  exact fun s w t hop hz => hstep s w t (.inr ⟨i.row, row_mem i, hop.symm, hz⟩)

/-- The step on the first of the commands that the host has issued. -/
theorem step_writesFor {s : State} {i : Instr} {t : Word} {is : List (Instr × Word)} {rest : List PortWrite}
    (h : s.commands = writesFor ((i, t) :: is) ++ rest) :
    step s = exec i { s with nowMs := t, commands := writesFor is ++ rest } := by
  have hc : s.commands = { word := encode i, nowMs := t } :: (writesFor is ++ rest) := h
  simp only [step, takeCommand_cons hc, decodeOfEncodeIsTheCommand i]

/-! ## CRC8_CLEAR and CRC8_UPDATE (R82, R83) -/

/-- Settles O14: the command is its own equation, and the rest is the encoding. -/
theorem crc8ClearClearsTheAccumulator : Obligations.Crc8ClearClearsTheAccumulator :=
  ⟨fun _ => rfl, illegalWithBits .crc8Clear, rfl⟩

/-- The state once an accumulator command has answered `acc` at a time, these writes being left. -/
def State.withCrc (s : State) (time : Word) (acc : Byte) (rest : List PortWrite) : State :=
  { s with crcAcc := acc, result := acc.setWidth 32, cmdResult := .ok, nowMs := time, commands := rest }

/-- The writes of one CRC8_UPDATE per byte, all at one time. -/
def updatesFor (time : Word) (l : List Byte) : List PortWrite := writesFor (l.map fun b => (.crc8Update b, time))

theorem step_crc8Clear {s : State} {time : Word} {l : List Byte} {rest : List PortWrite}
    (h : s.commands = writesFor ((.crc8Clear, time) :: l.map fun b => (.crc8Update b, time)) ++ rest) :
    step s = .next (s.withCrc time 0x00 (updatesFor time l ++ rest)) :=
  step_writesFor h

theorem step_crc8Update (s : State) (time : Word) (acc b : Byte) (l : List Byte) (rest : List PortWrite) :
    step (s.withCrc time acc (updatesFor time (b :: l) ++ rest)) =
      .next (s.withCrc time (crc8TableByte acc b) (updatesFor time l ++ rest)) :=
  step_writesFor (s := s.withCrc time acc (updatesFor time (b :: l) ++ rest)) rfl

/-- One CRC8_UPDATE per byte folds the bytes into the accumulator. -/
theorem runFor_crc8Updates (s : State) (time : Word) (acc : Byte) (l : List Byte) (rest : List PortWrite) :
    runFor l.length (s.withCrc time acc (updatesFor time l ++ rest)) =
      .next (s.withCrc time (l.foldl crc8TableByte acc) rest) := by
  induction l generalizing acc with
  | nil => rfl
  | cons b l ih => rw [List.length_cons, runFor_succ (step_crc8Update s time acc b l rest), ih, List.foldl_cons]

/-- Settles O15: after the clear the updates fold the bytes from 0 by the table, which is CRC8 (R79). -/
theorem crc8UpdateTakesTheNextByte : Obligations.Crc8UpdateTakesTheNextByte := by
  refine ⟨fun _ _ => rfl, fun s time l rest h => ?_, illegalWithBits (.crc8Update 0), rfl, by decide, by decide⟩
  rw [runFor_succ (step_crc8Clear h), runFor_crc8Updates, ← crc8_eq_foldl_crc8TableByte]
  rfl

end Sys2Proof.Machine
end

section
/-! The frame encoder (R84 to R91): escaping and its inverse, the header of a frame, the transmit commands one by one, and a
payload written, framed and read out. -/

namespace Sys2Proof.Machine

/-! ## Escaping (R84) -/

theorem escapeByte_eq_ite (b : Byte) :
    escapeByte b = if b = 0x7E then [0x7D, 0x5E] else if b = 0x7D then [0x7D, 0x5D] else [b] := by
  obtain ⟨rfl, h⟩ | ⟨rfl, h⟩ | ⟨hflag, hesc, h⟩ := escapeByte_cases b
  · exact h
  · exact h
  · rw [h, if_neg hflag, if_neg hesc]

/-- An escaped byte shows no delimiter. -/
theorem flag_notMem_escapeByte (b : Byte) : 0x7E ∉ escapeByte b := by
  obtain ⟨-, h⟩ | ⟨-, h⟩ | ⟨hflag, -, h⟩ := escapeByte_cases b
  · rw [h]; decide
  · rw [h]; decide
  · rw [h, List.mem_singleton]; exact hflag.symm

theorem flag_notMem_escapeAll (l : List Byte) : 0x7E ∉ escapeAll l := by
  rw [escapeAll, List.mem_flatMap]
  exact fun ⟨b, _, hb⟩ => flag_notMem_escapeByte b hb

/-- Escaping undone: the flag says that the byte before was the escape character. -/
def unescapeFrom : Bool → List Byte → List Byte
  | _, [] => []
  | true, b :: l => (b ^^^ 0x20) :: unescapeFrom false l
  | false, b :: l => if b = 0x7D then unescapeFrom true l else b :: unescapeFrom false l

/-- One escaped byte is undone to that byte, whatever follows it. -/
theorem unescapeFrom_escapeByte (b : Byte) (l : List Byte) :
    unescapeFrom false (escapeByte b ++ l) = b :: unescapeFrom false l := by
  obtain ⟨rfl, h⟩ | ⟨rfl, h⟩ | ⟨-, hesc, h⟩ := escapeByte_cases b
  · rw [h]; rfl
  · rw [h]; rfl
  · rw [h]; exact if_neg hesc

theorem unescapeFrom_escapeAll : Function.LeftInverse (unescapeFrom false) escapeAll := by
  intro l
  induction l with
  | nil => rfl
  | cons b l ih => rw [escapeAll_cons, unescapeFrom_escapeByte, ih]

/-- Settles O16: no escaped byte shows the delimiter, and what can be undone is one-to-one. -/
theorem escapingActsByteByByte : Obligations.EscapingActsByteByByte :=
  ⟨rfl, fun b l => by rw [escapeAll_cons, escapeByte_eq_ite], escapeAll_append, flag_notMem_escapeAll,
    fun _ _ h => unescapeFrom_escapeAll.injective h⟩

/-! ## The header (R72, R85) -/

/-- Settles O17: `h` is `buildHeader`, whose length bytes carry the length. -/
theorem frameHasTheHeaderLayout : Obligations.FrameHasTheHeaderLayout := by
  refine ⟨fun hb1 tid p hp => ?_, fun b => ?_⟩
  · exact ⟨buildHeader hb1 tid p, rfl, rfl, rfl, rfl, rfl, ⟨_, _, rfl, rfl, lengthBytes hp⟩, rfl, rfl, rfl⟩
  · rw [declaredLength, BitVec.toNat_append, Nat.or_comm]

/-! ## TXP_WRITE and TX_SETLEN (R88, R89) -/

theorem exec_txpWrite_of_lt {s : State} {idx16 : BitVec 16} (h : idx16.toNat < s.cfg.maxTxPayload.val) (d8 : Byte) :
    exec (.txpWrite idx16 d8) s =
      .next { s with txp := Memory.write s.txp idx16.toNat d8, result := 0, cmdResult := .ok } :=
  (execTxpWrite_eq idx16 d8 s).trans (if_pos h)

theorem exec_txpWrite_of_ge {s : State} {idx16 : BitVec 16} (h : s.cfg.maxTxPayload.val ≤ idx16.toNat) (d8 : Byte) :
    exec (.txpWrite idx16 d8) s = .next { s with result := 0, cmdResult := .range } :=
  (execTxpWrite_eq idx16 d8 s).trans (if_neg h.not_gt)

/-- The frame depends on the payload bytes below `tx_len` only. -/
theorem frameToSend_congr {s t : State} (hlen : t.txLen = s.txLen)
    (hbyte : ∀ j, j < s.txLen.toNat → byteAt t .txp j = byteAt s .txp j) (tid8 : BitVec 8) (type3 : BitVec 3)
    (val5 : BitVec 5) : frameToSend tid8 type3 val5 t = frameToSend tid8 type3 val5 s := by
  rw [frameToSend, frameToSend, hlen, bytesAt, bytesAt]
  exact congrArg (buildFrame _ _) (List.map_congr_left fun j hj => hbyte j (List.mem_range.1 hj))

/-- Settles O20: the write is `byteAt_setMem_write`, and a byte at or past `tx_len` is not one of the frame's. -/
theorem txpWriteStoresThePayloadByte : Obligations.TxpWriteStoresThePayloadByte := by
  refine ⟨fun _ _ d hi => exec_txpWrite_of_lt hi d, fun s t idx d hi ht => ?_,
    fun _ _ d hi => exec_txpWrite_of_ge hi d, fun s t idx d ht hlen tid type val => ?_, illegalWithBits (.txpWrite 0 0), rfl⟩
  · cases (exec_txpWrite_of_lt hi d).symm.trans ht
    have hwrite (j : Nat) := byteAt_setMem_write s .txp idx.toNat j d
    exact ⟨(hwrite _).trans (if_pos rfl), fun j hj => (hwrite j).trans (if_neg hj)⟩
  · obtain ⟨-, hwriteKeeps, -⟩ := storingCommandsKeepTheOtherBytes
    obtain ⟨hkept, -⟩ := hwriteKeeps s t idx d ht
    have htxLen : t.txLen = s.txLen := by obtain ⟨-, rfl⟩ | ⟨-, rfl⟩ := txpWrite_next ht <;> rfl
    exact frameToSend_congr htxLen (fun j hj => hkept .txp j fun h => Nat.ne_of_lt (hj.trans_le hlen) h.2) tid type val

theorem exec_txSetLen_of_le {s : State} {len16 : BitVec 16} (h : len16.toNat ≤ s.cfg.maxTxPayload.val) :
    exec (.txSetLen len16) s = .next { s with txLen := len16, result := 0, cmdResult := .ok } :=
  if_pos (decide_eq_true h)

theorem exec_txSetLen_of_gt {s : State} {len16 : BitVec 16} (h : s.cfg.maxTxPayload.val < len16.toNat) :
    exec (.txSetLen len16) s = .next { s with result := 0, cmdResult := .range } :=
  if_neg (by simpa [txLenInRange] using h)

/-- Settles O21: the two branches of the command, and its encoding. -/
theorem txSetLenSetsTheLength : Obligations.TxSetLenSetsTheLength :=
  ⟨fun _ _ => exec_txSetLen_of_le, fun _ _ => exec_txSetLen_of_gt, illegalWithBits (.txSetLen 0), rfl⟩

/-! ## TX_ENCODE (R86, R90) -/

/-- With `tx_len` in its range TX_ENCODE completes. -/
theorem txEncode_answers {s : State} (h : s.txLen.toNat ≤ s.cfg.maxTxPayload.val) (tid8 : BitVec 8) (type3 : BitVec 3)
    (val5 : BitVec 5) : ∃ t, exec (.txEncode tid8 type3 val5) s = .next t :=
  ⟨_, (execTxEncode_eq tid8 type3 val5 s).trans
    ((if_pos h).trans (if_pos (length_frameToSend_bounds h tid8 type3 val5).2))⟩

/-- Settles O19: the bounds are those of R76 for a payload of `tx_len` bytes. -/
theorem encodedFrameAlwaysFits : Obligations.EncodedFrameAlwaysFits := by
  intro s tid type val h
  obtain ⟨hmin, hmax⟩ := length_buildFrame_bounds (hb1 type val) tid (bytesAt s .txp s.txLen.toNat)
  rw [length_bytesAt] at hmin hmax
  obtain ⟨-, hfit⟩ := length_frameToSend_bounds h tid type val
  exact ⟨(Nat.add_comm ..).trans_le hmin, hmax, hfit, txEncode_answers h tid type val⟩

/-- A run of writes from index 0 reads back as what was written. -/
theorem bytesAt_setMem_writeAll (s : State) (b : BufferId) (vs : List Byte) :
    bytesAt (s.setMem b (Memory.writeAll (s.mem b) 0 vs)) b vs.length = vs := by
  refine List.ext_getElem (length_bytesAt ..) fun i _ hi => ?_
  simp only [bytesAt, List.getElem_map, List.getElem_range, byteAt_setMem_writeAll, dif_pos hi]

section

variable {s t : State} {tid8 : BitVec 8} {type3 : BitVec 3} {val5 : BitVec 5}
  (h : exec (.txEncode tid8 type3 val5) s = .next t)
include h

/-- What TX_ENCODE leaves in `TXF` is the frame. -/
theorem txEncode_bytesAt : bytesAt t .txf (frameToSend tid8 type3 val5 s).length = frameToSend tid8 type3 val5 s := by
  obtain ⟨-, -, rfl⟩ := txEncode_next h
  exact bytesAt_setMem_writeAll s .txf _

/-- The length is recorded and returned whole: no frame is too long for its field. -/
theorem txEncode_length :
    t.txFrameLen.toNat = (frameToSend tid8 type3 val5 s).length ∧
      t.result.toNat = (frameToSend tid8 type3 val5 s).length := by
  obtain ⟨-, hfit, rfl⟩ := txEncode_next h
  have hmax := (txfSize_range s.cfg).2
  exact ⟨Nat.mod_eq_of_lt (by omega), Nat.mod_eq_of_lt (by omega)⟩

end

/-- The shortest ACK (vector E1). -/
theorem buildFrame_ack_5 :
    buildFrame (hb1 0 0) 5 [] = [0x7E, 0x55, 0x00, 0x05, 0x00, 0x00, 0x00, 0x00, 0xD1, 0x7E] := by decide +kernel

/-- The ACK whose header CRC is the delimiter. -/
theorem buildHeader_ack_F6 : buildHeader (hb1 0 0) 0xF6 [] = [0x55, 0x00, 0xF6, 0x00, 0x00, 0x00, 0x00, 0x7E] := by
  decide +kernel

/-- Without a payload and with nothing to escape in the header the frame is 10 bytes. -/
theorem length_buildFrame_nil {hb1 tid : Byte} (h : ∀ b ∈ buildHeader hb1 tid [], b ≠ 0x7E ∧ b ≠ 0x7D) :
    (buildFrame hb1 tid []).length = 10 := by
  have hcount : (buildHeader hb1 tid [] ++ []).countP (fun b => b == 0x7E || b == 0x7D) = 0 := by
    rw [List.append_nil, List.countP_eq_zero]
    intro b hb
    simpa using h b hb
  rw [length_buildFrame, hcount]
  rfl

/-- Settles O22: the frame is written from index 0, the other bytes of `TXF` are past it, and the examples are evaluated. -/
theorem txEncodeBuildsTheFrame : Obligations.TxEncodeBuildsTheFrame := by
  refine ⟨fun s tid type val hlen => ?_, illegalWithBits (.txEncode 0 0 0), rfl, buildFrame_ack_5,
    fun hb1 tid => ⟨rfl, length_buildFrame_nil⟩, ?_, ?_⟩
  · obtain ⟨t, ht⟩ := txEncode_answers hlen tid type val
    obtain ⟨hframeLen, hresult⟩ := txEncode_length ht
    obtain ⟨-, -, hencodeKeeps⟩ := storingCommandsKeepTheOtherBytes
    refine ⟨t, frameToSend tid type val s, rfl, ht, txEncode_bytesAt ht, fun j hj => ?_, hframeLen, hresult, ?_⟩
    · exact hencodeKeeps s t tid type val ht .txf j fun hlt => hj.not_gt hlt.2
    · obtain ⟨-, -, rfl⟩ := txEncode_next ht
      rfl
  · rw [buildHeader_ack_F6]; rfl
  · rw [buildFrame, buildHeader_ack_F6]; decide

/-! ## TXF_READ (R91) -/

theorem exec_txfRead_of_lt {s : State} {idx18 : BitVec 18} (h : idx18.toNat < s.txFrameLen.toNat)
    (hsize : idx18.toNat < s.cfg.txfSize) :
    exec (.txfRead idx18) s =
      .next { s with result := (byteAt s .txf idx18.toNat).setWidth 32, cmdResult := .ok } :=
  (execTxfRead_eq idx18 s).trans ((if_pos h).trans (if_pos hsize))

theorem exec_txfRead_of_ge {s : State} {idx18 : BitVec 18} (h : s.txFrameLen.toNat ≤ idx18.toNat) :
    exec (.txfRead idx18) s = .next { s with result := 0, cmdResult := .range } :=
  (execTxfRead_eq idx18 s).trans (if_neg h.not_gt)

/-- After a TX_ENCODE every byte of its frame is read back at its index. -/
theorem txfRead_of_txEncode {s t : State} {tid8 : BitVec 8} {type3 : BitVec 3} {val5 : BitVec 5}
    (h : exec (.txEncode tid8 type3 val5) s = .next t) {idx18 : BitVec 18} {b : Byte}
    (hb : (frameToSend tid8 type3 val5 s)[idx18.toNat]? = some b) :
    exec (.txfRead idx18) t = .next { t with result := b.setWidth 32, cmdResult := .ok } := by
  have hi : idx18.toNat < (frameToSend tid8 type3 val5 s).length := (List.getElem?_eq_some_iff.1 hb).1
  have hfit : (frameToSend tid8 type3 val5 s).length ≤ t.cfg.txfSize := by
    rw [(exec_cfg_nowMs h).1]
    exact (txEncode_next h).2.1
  have hbyte : byteAt t .txf idx18.toNat = b := by
    rw [← txEncode_bytesAt h, getElem?_bytesAt _ _ _ _ hi] at hb
    exact Option.some.inj hb
  rw [exec_txfRead_of_lt (by rw [(txEncode_length h).1]; exact hi) (hi.trans_le hfit), hbyte]

/-- A frame begins and ends with the delimiter. -/
theorem buildFrame_ends (hb1 tid : Byte) (p : List Byte) :
    (buildFrame hb1 tid p)[0]? = some 0x7E ∧
      (buildFrame hb1 tid p)[(buildFrame hb1 tid p).length - 1]? = some 0x7E := by
  refine ⟨rfl, ?_⟩
  rw [← List.getLast?_eq_getElem?, buildFrame, List.getLast?_concat]
  rfl

/-- Settles O23: reads in range and out of range, and the two ends of a frame just built. -/
theorem txfReadReturnsTheFrameByte : Obligations.TxfReadReturnsTheFrameByte := by
  refine ⟨fun s idx hi hlen => exec_txfRead_of_lt hi (hi.trans_le hlen), fun s idx hi => exec_txfRead_of_ge hi,
    fun s t tid type val hlen ht => ?_, illegalWithBits (.txfRead 0), rfl⟩
  obtain ⟨hfirst, hlast⟩ := buildFrame_ends (hb1 type val) tid (bytesAt s .txp s.txLen.toNat)
  have hlastIndex : (t.txFrameLen - 1).toNat = (frameToSend tid type val s).length - 1 := by
    have h10 := (length_frameToSend_bounds hlen tid type val).1
    rw [← (txEncode_length ht).1] at h10 ⊢
    bv_omega
  exact ⟨txfRead_of_txEncode (idx18 := 0) ht hfirst, txfRead_of_txEncode ht (by rw [hlastIndex]; exact hlast)⟩

/-! ## A payload written whole, framed and read out (R90, R91, R130) -/

/-- The step on the host's next TXP_WRITE, at an index within `TXP`. -/
theorem step_txpWrite {s : State} {n : Nat} {b : Byte} {time : Word} {is : List (Instr × Word)} {rest : List PortWrite}
    (hn : n < s.cfg.maxTxPayload.val)
    (hc : s.commands = writesFor ((.txpWrite (BitVec.ofNat 16 n) b, time) :: is) ++ rest) :
    ∃ u, step s = .next u ∧ u.commands = writesFor is ++ rest ∧ u.cfg = s.cfg ∧ u.draws = s.draws ∧
      u.txp = Memory.write s.txp n b := by
  have hmax := s.cfg.maxTxPayload.isLt
  have hindex : (BitVec.ofNat 16 n).toNat = n := Nat.mod_eq_of_lt (by omega)
  rw [← hindex] at hn
  exact ⟨_, (step_writesFor hc).trans
    (exec_txpWrite_of_lt (s := { s with nowMs := time, commands := writesFor is ++ rest }) hn b),
    rfl, rfl, rfl, congrArg (Memory.write s.txp · b) hindex⟩

/-- One TXP_WRITE per byte, from index `n` on, writes the bytes to `TXP` and takes those commands. -/
theorem runFor_txpWrites (p : List Byte) {n : Nat} {s : State} {time : Word} {rest : List PortWrite}
    (hn : n + p.length ≤ s.cfg.maxTxPayload.val)
    (hc : s.commands = writesFor ((txpWritesFrom n p).map fun i => (i, time)) ++ rest) :
    ∃ t, runFor p.length s = .next t ∧ t.commands = rest ∧ t.cfg = s.cfg ∧ t.draws = s.draws ∧
      t.txp = Memory.writeAll s.txp n p := by
  induction p generalizing n s with
  | nil => exact ⟨s, rfl, hc, rfl, rfl, rfl⟩
  | cons b p ih =>
    rw [List.length_cons] at hn
    obtain ⟨u, hstep, hcu, hcfg, hdraws, htxp⟩ := step_txpWrite (by omega) hc
    obtain ⟨t, hrun, hct, hcfg', hdraws', htxp'⟩ := ih (n := n + 1) (by rw [hcfg]; omega) hcu
    exact ⟨t, (runFor_succ hstep).trans hrun, hct, hcfg'.trans hcfg, hdraws'.trans hdraws, by rw [htxp', htxp]; rfl⟩

/-- TXP_LOAD: the payload stands in `TXP` and `tx_len` is its length, whatever `TXP` held before. -/
theorem runFor_txpLoad {p : List Byte} {s : State} {time : Word} {rest : List PortWrite}
    (hp : p.length ≤ s.cfg.maxTxPayload.val)
    (hc : s.commands = writesFor ((expandTxpLoad p).map fun i => (i, time)) ++ rest) :
    ∃ t, runFor (p.length + 1) s = .next t ∧ t.commands = rest ∧ t.cfg = s.cfg ∧ t.txLen.toNat = p.length ∧
      bytesAt t .txp p.length = p := by
  have hmax := s.cfg.maxTxPayload.isLt
  have hlen : (BitVec.ofNat 16 p.length).toNat = p.length := Nat.mod_eq_of_lt (by omega)
  obtain ⟨u, hrun, hcu, hcfg, hdraws, htxp⟩ := runFor_txpWrites p (n := 0) (time := time)
    (rest := writesFor [(.txSetLen (BitVec.ofNat 16 p.length), time)] ++ rest) (by omega)
    (hc.trans (by simp [expandTxpLoad, writesFor]))
  have hstep := (step_writesFor hcu).trans (exec_txSetLen_of_le (by rw [hlen]; dsimp only; rw [hcfg]; exact hp))
  refine ⟨_, (runFor_add hrun).trans (runFor_succ hstep), rfl, hcfg, hlen, ?_⟩
  have hmem : u.mem .txp = (s.setMem .txp (Memory.writeAll s.txp 0 p)).mem .txp := htxp
  exact (bytesAt_congr hmem hdraws p.length).trans (bytesAt_setMem_writeAll s .txp p)

/-- Settles O60: TXP_LOAD leaves the payload in `TXP`, TX_ENCODE its frame in `TXF`, and that is what is read. -/
theorem writtenPayloadIsFramedAndReadOut : Obligations.WrittenPayloadIsFramedAndReadOut := by
  intro s p time rest tid type val hp hc
  obtain ⟨u, hload, hcu, hcfg, hlen, hbytes⟩ := runFor_txpLoad hp (time := time)
    (rest := writesFor [(.txEncode tid type val, time)] ++ rest) (hc.trans (by simp [writesFor]))
  have hfits : u.txLen.toNat ≤ u.cfg.maxTxPayload.val := by rw [hlen, hcfg]; exact hp
  obtain ⟨t, ht⟩ := txEncode_answers (s := { u with nowMs := time, commands := rest }) hfits tid type val
  have hframe :
      frameToSend tid type val { u with nowMs := time, commands := rest } = buildFrame (hb1 type val) tid p := by
    rw [← hlen] at hbytes
    exact congrArg (buildFrame (hb1 type val) tid) hbytes
  obtain ⟨-, hfit, hnext⟩ := txEncode_next ht
  have hrun : runFor (p.length + 2) s = .next t :=
    (runFor_add (n := 1) hload).trans (runFor_succ ((step_writesFor hcu).trans ht))
  refine ⟨t, hrun, ?_, ?_, ?_, fun i b hi => ?_⟩
  · rw [hnext]
  · rw [hnext]; exact hbytes
  · rw [hnext]; exact hlen
  · have hlt := (List.getElem?_eq_some_iff.1 hi).1
    have hmax : (buildFrame (hb1 type val) tid p).length ≤ 131088 := hframe ▸ hfit.trans (txfSize_range u.cfg).2
    have hindex : (BitVec.ofNat 18 i).toNat = i := Nat.mod_eq_of_lt (by omega)
    exact txfRead_of_txEncode ht (by rw [hframe, hindex]; exact hi)

end Sys2Proof.Machine
end

section
/-! The receive commands, one by one (R93 to R97, R102 to R106). In order: RX_POLL, a pushed byte, a pushed delimiter, who
discards, the one changed byte, RX_RELEASE and RX_READ. -/

namespace Sys2Proof.Machine

/-! ## RX_POLL (R93, R104) -/

theorem exec_rxPoll_of_stale {s : State} (h : Stale s) : exec .rxPoll s = .next (complete 1 (discardPartial s)) := by
  simp only [exec, execRxPoll, (timedOut_iff s).2 h, timeoutCheck_of_stale h]
  rfl

theorem exec_rxPoll_of_not_stale {s : State} (h : ¬ Stale s) : exec .rxPoll s = .next (complete 0 s) := by
  simp only [exec, execRxPoll, Bool.eq_false_iff.2 (mt (timedOut_iff s).1 h), timeoutCheck_of_not_stale h]
  rfl

/-- With `rx_timeout` 0 a partial frame is stale as soon as any time has passed. -/
theorem stale_iff_of_rxTimeout_eq_zero {s : State} (hp : Partial s) (h0 : s.rxTimeout = 0) :
    Stale s ↔ s.nowMs ≠ s.rxLastMs := by
  have hsince : 0 < (elapsedMs s).toNat ↔ s.nowMs ≠ s.rxLastMs := by
    rw [elapsedMs]; bv_omega
  rw [← hsince, elapsedMs_toNat, Stale, h0]
  exact and_iff_right hp

/-- Settles O25: the two answers, a timeout of 0, and the encoding. -/
theorem rxPollAppliesTheTimeout : Obligations.RxPollAppliesTheTimeout :=
  ⟨fun _ => exec_rxPoll_of_stale, fun _ => exec_rxPoll_of_not_stale, fun _ => stale_iff_of_rxTimeout_eq_zero,
    illegalWithBits .rxPoll, rfl⟩

/-! ## RX_PUSH of a byte that is no delimiter (R94, R95, R103) -/

/-- Settles O27: the busy answer of `rxPush_of_held`. -/
theorem rxPushIsBusyWhileAFrameIsHeld : Obligations.RxPushIsBusyWhileAFrameIsHeld := fun _ d8 hr => rxPush_of_held hr d8

/-- Settles O28: neither the delimiter nor a fresh ESC, so what decides is whether the buffer has a free place. -/
theorem rxPushStoresADataByte : Obligations.RxPushStoresADataByte := by
  intro s d8 hr hs hflag hesc
  have hdata : ¬ (s.rxEsc = false ∧ d8 = 0x7D) := fun ⟨hfresh, h7D⟩ => hesc.elim (by simp [hfresh]) (absurd h7D)
  have hpush := execRxPush_eq d8 s
  rw [if_neg (by simp [hr]), if_neg hflag, beforeByte_of_not_stale hs, if_neg hdata] at hpush
  exact ⟨fun hfree => hpush.trans (if_pos hfree), fun hfull => hpush.trans (if_neg hfull.not_gt)⟩

/-- Settles O29: an ESC that no ESC precedes only sets the flag. -/
theorem rxPushOfEscWaitsForItsPartner : Obligations.RxPushOfEscWaitsForItsPartner := by
  intro s hr hs hesc
  have hpush := execRxPush_eq 0x7D s
  rw [if_neg (by simp [hr]), if_neg (by decide), beforeByte_of_not_stale hs] at hpush
  exact hpush.trans (if_pos ⟨hesc, rfl⟩)

/-! ## RX_PUSH of the delimiter (R96, R97) -/

/-- A delimiter closes the frame by the verdict on what the timeout check has left. -/
theorem exec_rxPush_flag {s : State} {v : Verdict} (hr : s.rxReady = false)
    (hc : (beforeByte s).rxCount.toNat ≤ s.cfg.rxBufSize)
    (hv : validate (beforeByte s).rxEsc (beforeByte s).rxOvf (buffered (beforeByte s)) = v) :
    exec (.rxPush 0x7E) s =
      .next (complete (outcomeWord (closeFrame v (beforeByte s)).2) (closeFrame v (beforeByte s)).1) := by
  subst hv
  exact (execRxPush_eq 0x7E s).trans ((if_neg (by simp [hr])).trans ((if_pos rfl).trans (if_pos hc)))

/-- Settles O30: clause by clause, the verdict that `validate_cases` gives on the bytes buffered. -/
theorem delimiterClosesTheFrame : Obligations.DelimiterClosesTheFrame := by
  intro s hr hs hc fails
  obtain ⟨hesc, hovf, hempty, hlength, hcrc, hpacket, hgood⟩ := validate_cases s.rxEsc s.rxOvf (buffered s)
  have hflag (v : Verdict) (hv : validate s.rxEsc s.rxOvf (buffered s) = v) :
      exec (.rxPush 0x7E) s = .next (complete (outcomeWord (closeFrame v { s with rxLastMs := s.nowMs }).2)
        (closeFrame v { s with rxLastMs := s.nowMs }).1) := by
    rw [← beforeByte_of_not_stale hs]
    exact exec_rxPush_flag hr ((beforeByte_rxCount_le s).trans hc) (by rw [beforeByte_of_not_stale hs]; exact hv)
  exact ⟨fun he => hflag _ (hesc he),
    fun he ho => hflag _ (hovf he ho),
    fun he ho h0 => hflag _ (hempty he ho (buffered_eq_nil.2 h0)),
    fun he ho h0 hl => hflag _ (hlength he ho (mt buffered_eq_nil.1 h0) hl),
    fun he ho hl hc => hflag _ (hcrc he ho hl hc),
    fun he ho hl hc hp => hflag _ (hpacket he ho hl hc hp),
    fun he ho hl hc hp => hflag _ (hgood he ho hl hc hp)⟩

/-! ## Who discards a partial frame (R93) -/

theorem Stale.rxReady {s : State} (h : Stale s) : s.rxReady = false := by
  obtain ⟨⟨hr, -⟩, -⟩ := h
  exact hr

@[simp] theorem closeFrame_rxDiscard (v : Verdict) (s : State) : (closeFrame v s).1.rxDiscard = s.rxDiscard := by
  cases v <;> rfl

/-- A push that finds nothing stale leaves `rx_discard` alone. -/
theorem rxPush_rxDiscard {s t : State} {d : Byte} (h : exec (.rxPush d) s = .next t) (hs : ¬ Stale s) :
    t.rxDiscard = s.rxDiscard := by
  have hkept : (beforeByte s).rxDiscard = s.rxDiscard := by rw [beforeByte_of_not_stale hs]
  obtain ⟨-, rfl⟩ | ⟨-, -, -, v, -, rfl⟩ | ⟨-, -, -, -, rfl⟩ | ⟨-, -, -, -, rfl⟩ | ⟨-, -, -, -, rfl⟩ := rxPush_next h
  · rfl
  · exact (closeFrame_rxDiscard v _).trans hkept
  all_goals exact hkept

/-- After the discard nothing is buffered, so a delimiter is no event. -/
theorem exec_rxPush_flag_of_stale {s : State} (hs : Stale s) :
    exec (.rxPush 0x7E) s = .next (complete 0 (beforeByte s)) := by
  have hempty : validate (beforeByte s).rxEsc (beforeByte s).rxOvf (buffered (beforeByte s)) = .empty := by
    rw [beforeByte_of_stale hs]; rfl
  exact exec_rxPush_flag hs.rxReady (by rw [beforeByte_of_stale hs]; exact Nat.zero_le _) hempty

/-- A push that discards is no frame error. -/
theorem rxPush_keeps_err_of_stale {s t : State} {d : Byte} (h : exec (.rxPush d) s = .next t) (hs : Stale s) :
    t.rxErr = s.rxErr ∧ t.rxErrCode = s.rxErrCode := by
  obtain ⟨herror, rfl, -⟩ | ⟨-, hkept⟩ := rxPush_frameError h
  · cases (exec_rxPush_flag_of_stale hs).symm.trans h
    exact absurd (show (0 : Word) = 0xFFFFFFFF from herror) (by decide)
  · exact hkept

/-- Settles O26: only three commands write `rx_discard`; RX_RELEASE clears it, and the other two set it on a stale partial
frame. -/
theorem onlyAStalePartialFrameIsDiscarded : Obligations.OnlyAStalePartialFrameIsDiscarded := by
  intro s t i h hs ht
  have hset : t.rxDiscard ≠ s.rxDiscard := by rw [hs, ht]; decide
  have hreset : i ≠ .softReset := by rintro rfl; cases h; exact Bool.false_ne_true ht
  obtain ⟨-, -, -, -, -, -, hdiscard, -⟩ := elementsChangeOnlyByTheirCommands s t i h hreset
  obtain ⟨d, rfl⟩ | rfl | rfl := hdiscard hset
  · have hstale : Stale s := by_contra fun hn => hset (rxPush_rxDiscard h hn)
    obtain ⟨herr, hcode⟩ := rxPush_keeps_err_of_stale h hstale
    exact ⟨hstale, hstale.rxReady, herr, hcode, .inr ⟨d, rfl⟩⟩
  · have hstale : Stale s := by_contra fun hn => hset (by cases (exec_rxPoll_of_not_stale hn).symm.trans h; rfl)
    cases (exec_rxPoll_of_stale hstale).symm.trans h
    exact ⟨hstale, hstale.rxReady, rfl, rfl, .inl rfl⟩
  · cases h
    exact absurd ht Bool.false_ne_true

/-! ## One changed byte of a good frame (R102) -/

/-- One byte of a list changed changes its CRC. -/
theorem crc8_set_ne {l : List Byte} {i : Nat} {v : Byte} (hi : i < l.length) (hv : l[i]? ≠ some v) :
    crc8 (l.set i v) ≠ crc8 l := by
  have hne : v ≠ l[i] := fun h => hv (by rw [List.getElem?_eq_getElem hi, h])
  have hcrc := crc8_ne_of_byte_ne (l.take i) (l.drop (i + 1)) hne
  rwa [← List.set_eq_take_cons_drop v hi, List.getElem_cons_drop, List.take_append_drop] at hcrc

theorem getD_set_self {l : List Byte} {i : Nat} (v : Byte) (hi : i < l.length) : (l.set i v).getD i 0 = v := by
  rw [List.getD_eq_getElem?_getD, List.getElem?_set_self hi, Option.getD_some]

theorem getD_set_ne {l : List Byte} {i j : Nat} (v : Byte) (h : i ≠ j) : (l.set i v).getD j 0 = l.getD j 0 := by
  rw [List.getD_eq_getElem?_getD, List.getElem?_set_ne h, List.getD_eq_getElem?_getD]

theorem getD_ne_of_getElem?_ne {l : List Byte} {i : Nat} {v : Byte} (hi : i < l.length) (hv : l[i]? ≠ some v) :
    l.getD i 0 ≠ v := by
  rintro rfl
  exact hv (by rw [List.getD_eq_getElem?_getD, List.getElem?_eq_getElem hi, Option.getD_some])

section OneChangedByte

variable {b : List Byte} {i : Nat} {v : Byte}

/-- With a length byte changed the header declares another length. -/
theorem not_lengthGood_set (hb : LengthGood b) (hi : i < b.length) (hv : b[i]? ≠ some v) (h : i = 3 ∨ i = 4) :
    ¬ LengthGood (b.set i v) := by
  rintro ⟨-, hset⟩
  have hbyte : (b.getD i 0).toNat ≠ v.toNat := mt BitVec.eq_of_toNat_eq (getD_ne_of_getElem?_ne hi hv)
  obtain ⟨-, hlen⟩ := hb
  rw [List.length_set] at hset
  obtain rfl | rfl := h
  · rw [getD_set_self v hi, getD_set_ne v (by decide)] at hset
    omega
  · rw [getD_set_self v hi, getD_set_ne v (by decide)] at hset
    omega

theorem lengthGood_set (hb : LengthGood b) (h3 : i ≠ 3) (h4 : i ≠ 4) : LengthGood (b.set i v) := by
  rw [LengthGood, List.length_set, getD_set_ne v h3, getD_set_ne v h4]
  exact hb

/-- A changed header byte is found by the header CRC: the byte is one of those it is taken over, or the CRC itself. -/
theorem headerCrc_set_ne (hc : CrcGood b) (hi : i < b.length) (hv : b[i]? ≠ some v) (h : i < 8) :
    crc8 ((b.set i v).take 7) ≠ (b.set i v).getD 7 0 := by
  obtain ⟨hheader, -⟩ := hc
  rw [List.take_set]
  by_cases h7 : i = 7
  · subst h7
    rw [getD_set_self v hi, List.set_eq_of_length_le (by simp), hheader]
    exact getD_ne_of_getElem?_ne hi hv
  · rw [getD_set_ne v h7, ← hheader]
    refine crc8_set_ne (by rw [List.length_take]; omega) ?_
    rwa [List.getElem?_take_of_lt (by omega)]

/-- A changed payload byte is found by the payload CRC. -/
theorem payloadCrc_set_ne (hc : CrcGood b) (hi : i < b.length) (hv : b[i]? ≠ some v) (h : 8 ≤ i) :
    crc8 ((b.set i v).drop 8) ≠ (b.set i v).getD 5 0 := by
  obtain ⟨-, hpayload⟩ := hc
  rw [List.drop_set, if_neg h.not_gt, getD_set_ne v (by omega), ← hpayload]
  refine crc8_set_ne (by rw [List.length_drop]; omega) ?_
  rwa [List.getElem?_drop, Nat.add_sub_cancel' h]

theorem not_crcGood_set (hc : CrcGood b) (hi : i < b.length) (hv : b[i]? ≠ some v) : ¬ CrcGood (b.set i v) := by
  rintro ⟨hheader, hpayload⟩
  obtain h | h := Nat.lt_or_ge i 8
  · exact headerCrc_set_ne hc hi hv h hheader
  · exact payloadCrc_set_ne hc hi hv h hpayload

end OneChangedByte

/-- Settles O39: a changed length byte fails check 5, and any other leaves the length good and fails a CRC check. -/
theorem oneChangedByteIsFound : Obligations.OneChangedByteIsFound := by
  intro s b i v hl hc _ hi hv hr hs he ho hcount hbuf
  have hheader (hmem : i ∈ [0, 1, 2, 5, 6, 7]) : i < 8 := by
    simp only [List.mem_cons, List.not_mem_nil, or_false] at hmem; omega
  have hfound := fun hmem => headerCrc_set_ne hc hi hv (hheader hmem)
  have hne : s.rxCount ≠ 0 := fun h0 => by
    have hset := congrArg List.length (hbuf.symm.trans (buffered_eq_nil.2 h0))
    rw [List.length_set, List.length_nil] at hset
    omega
  obtain ⟨-, -, -, hlength, hcrc, -⟩ := delimiterClosesTheFrame s hr hs hcount
  rw [hbuf] at hlength hcrc
  by_cases h : i = 3 ∨ i = 4
  · rw [if_pos h]
    exact ⟨_, hlength he ho hne (not_lengthGood_set hl hi hv h), rfl, hr, rfl, rfl, hfound, payloadCrc_set_ne hc hi hv⟩
  · rw [if_neg h]
    obtain ⟨h3, h4⟩ := not_or.1 h
    exact ⟨_, hcrc he ho (lengthGood_set hl h3 h4) (not_crcGood_set hc hi hv), rfl, hr, rfl, rfl, hfound,
      payloadCrc_set_ne hc hi hv⟩

/-! ## RX_RELEASE and RX_READ (R105, R106) -/

/-- Settles O32: a held frame is freed, and without one only the sticky flags are cleared. -/
theorem rxReleaseFreesTheFrame : Obligations.RxReleaseFreesTheFrame := by
  have hfree (s : State) : exec .rxRelease s = .next (complete 0 (clearSticky (freeHeld s))) := rfl
  refine ⟨fun s hr => ?_, fun s hr => ?_, illegalWithBits .rxRelease, rfl⟩
  · rw [hfree, freeHeld, if_pos hr]; rfl
  · rw [hfree, freeHeld, if_neg (by simp [hr])]; rfl

/-- Settles O33: below `rx_count` the index names a byte of `RXB`, and at or past it none. -/
theorem rxReadReturnsTheBufferedByte : Obligations.RxReadReturnsTheBufferedByte :=
  ⟨fun s idx18 hi hc => (execRxRead_eq idx18 s).trans ((if_pos hi).trans (if_pos (hi.trans_le hc))),
    fun s idx18 hi => (execRxRead_eq idx18 s).trans (if_neg hi.not_gt), illegalWithBits (.rxRead 0), rfl⟩

end Sys2Proof.Machine
end

section
/-! Runs of pushed bytes (R98 to R101): delimiters at IDLE, an escaped list, a whole frame. In order: one delimiter at IDLE, a
header and its payload as the checks of R96 see them, a body with its closing delimiter, the bytes that are no event. -/

namespace Sys2Proof.Machine

/-! ## Delimiters at IDLE (R98) -/

/-- The state once an IDLE decoder has taken a delimiter at a time, these writes being left. -/
def State.pastFlag (s : State) (time : Word) (rest : List PortWrite) : State :=
  { s with rxLastMs := time, nowMs := time, result := 0, cmdResult := .ok, commands := rest }

/-- To an IDLE decoder a delimiter is no event. -/
theorem step_flag_of_idle {s : State} {time : Word} {xs : List (Byte × Word)} {rest : List PortWrite} (h : Idle s)
    (hc : s.commands = pushesFor ((0x7E, time) :: xs) ++ rest) :
    step s = .next (s.pastFlag time (pushesFor xs ++ rest)) := by
  have hs : ¬ Stale { s with nowMs := time, commands := pushesFor xs ++ rest } := Idle.not_stale h
  obtain ⟨hr, h0, he, ho⟩ := h
  obtain ⟨-, -, hempty, -⟩ :=
    delimiterClosesTheFrame { s with nowMs := time, commands := pushesFor xs ++ rest } hr hs (by simp [h0])
  exact (step_push decodeOfEncodeIsTheCommand hc).trans (hempty he ho h0)

/-- Settles O35, by induction on the delimiters before the last: each leaves the decoder IDLE. -/
theorem delimitersAtIdleAreNoEvent : Obligations.DelimitersAtIdleAreNoEvent := by
  intro s times last rest h hc
  induction times generalizing s with
  | nil => exact runFor_succ (step_flag_of_idle h (xs := []) hc)
  | cons time times ih =>
    have hstep := step_flag_of_idle h (xs := (times ++ [last]).map fun t => (0x7E, t)) hc
    rw [List.length_cons, runFor_succ hstep, ih (s.pastFlag time _) h rfl]
    rfl

/-! ## An escaped list (R100) -/

/-- From IDLE the escaped bytes of a list that fits leave just that list buffered. -/
theorem run_escapeAll_of_idle {s : State} {l : List Byte} {xs ys : List (Byte × Word)} {rest : List PortWrite}
    (h : Idle s) (hl : l.length ≤ s.cfg.rxBufSize) (hx : xs.map Prod.fst = escapeAll l) (ht : Timely s (xs ++ ys))
    (hc : s.commands = pushesFor (xs ++ ys) ++ rest) :
    ∃ t, runFor xs.length s = .next t ∧ t.rxReady = false ∧ t.rxEsc = false ∧ t.rxOvf = false ∧
      t.rxCount.toNat = l.length ∧ buffered t = l ∧ Timely t ys ∧ t.commands = pushesFor ys ++ rest ∧ Keep s t := by
  obtain ⟨hr, h0, he, ho⟩ := h
  have hzero : s.rxCount.toNat = 0 := by rw [h0]; rfl
  obtain ⟨t, hrun, hrt, het, hot, hcount, hbuf, hrest⟩ :=
    run_escapeAll decodeOfEncodeIsTheCommand l hx hr he ht hc (by omega)
  rw [hzero, Nat.zero_add] at hcount
  rw [buffered_eq_nil.2 h0, List.nil_append] at hbuf
  exact ⟨t, hrun, hrt, het, hot.trans ho, hcount, hbuf, hrest⟩

/-- Settles O36: the run of the escaped bytes with nothing after it. -/
theorem escapingRoundTripsThroughTheDecoder : Obligations.EscapingRoundTripsThroughTheDecoder := by
  intro s l xs rest h hl hx hin hc
  have ht : Timely s (xs ++ []) := by rw [List.append_nil]; exact timely_of_idle h hin
  obtain ⟨t, hrun, hr, he, ho, hcount, hbuf, -, hct, hkeep⟩ :=
    run_escapeAll_of_idle (rest := rest) h hl hx ht (by rw [List.append_nil]; exact hc)
  refine ⟨t, hrun, hct, hcount, ?_, he, ho, hr, hkeep.err, hkeep.code, hkeep.discard⟩
  rw [← hcount]
  exact hbuf

/-! ## A built header and its payload pass the checks of R96 -/

section BuiltFrame

variable (hb1 tid : Byte) (p : List Byte)

theorem length_header_append : (buildHeader hb1 tid p ++ p).length = 8 + p.length := by
  rw [List.length_append, length_buildHeader]

theorem lengthGood_header_append (hp : p.length ≤ 65535) : LengthGood (buildHeader hb1 tid p ++ p) := by
  rw [LengthGood, length_header_append]
  exact ⟨by omega, congrArg (8 + ·) (lengthBytes hp)⟩

theorem crcGood_header_append : CrcGood (buildHeader hb1 tid p ++ p) := ⟨rfl, rfl⟩

theorem packetGood_header_append_iff : PacketGood (buildHeader hb1 tid p ++ p) ↔ hb1.toNat % 8 ≤ 1 :=
  and_iff_right rfl

end BuiltFrame

/-! ## A body and its closing delimiter (R99, R101) -/

/-- What the closing delimiter of a frame brings: the frame held, or the frame error that R101 names. -/
def ClosedAs (size : Nat) (hb1 tid : Byte) (p : List Byte) (t : State) : Prop :=
  (hb1.toNat % 8 ≤ 1 → 8 + p.length ≤ size →
    t.result = 1 ∧ t.rxReady = true ∧ t.rxCount.toNat = 8 + p.length ∧
    bytesAt t .rxb (8 + p.length) = buildHeader hb1 tid p ++ p) ∧
  (2 ≤ hb1.toNat % 8 → 8 + p.length ≤ size →
    t.result = 0xFFFFFFFF ∧ t.rxReady = false ∧ t.rxErr = true ∧ t.rxErrCode = some .badPacket) ∧
  (size < 8 + p.length →
    t.result = 0xFFFFFFFF ∧ t.rxReady = false ∧ t.rxErr = true ∧ t.rxErrCode = some .invalidLength)

/-- The delimiter on a header and its payload, buffered whole. -/
theorem exec_flag_of_buffered_frame {s : State} {hb1 tid : Byte} {p : List Byte} (hp : p.length ≤ 65535)
    (hr : s.rxReady = false) (hs : ¬ Stale s) (he : s.rxEsc = false) (ho : s.rxOvf = false)
    (hcount : s.rxCount.toNat = 8 + p.length) (hfits : 8 + p.length ≤ s.cfg.rxBufSize)
    (hbuf : buffered s = buildHeader hb1 tid p ++ p) :
    ∃ t, exec (.rxPush 0x7E) s = .next t ∧ t.commands = s.commands ∧ t.cmdResult = .ok ∧
      ClosedAs s.cfg.rxBufSize hb1 tid p t := by
  obtain ⟨-, -, -, -, -, hbad, hgood⟩ := delimiterClosesTheFrame s hr hs (by omega)
  rw [hbuf] at hbad hgood
  have hl := lengthGood_header_append hb1 tid p hp
  have hc := crcGood_header_append hb1 tid p
  have hpacket := packetGood_header_append_iff hb1 tid p
  by_cases htype : hb1.toNat % 8 ≤ 1
  · refine ⟨_, hgood he ho hl hc (hpacket.2 htype), rfl, rfl, fun _ _ => ⟨rfl, rfl, hcount, ?_⟩,
      fun h => absurd htype (by omega), fun h => absurd hfits h.not_ge⟩
    rw [← hcount]
    exact hbuf
  · exact ⟨_, hbad he ho hl hc (mt hpacket.1 htype), rfl, rfl, fun h => absurd h htype, fun _ _ => ⟨rfl, hr, rfl, rfl⟩,
      fun h => absurd hfits h.not_ge⟩

/-- The delimiter on a frame that has overflowed the buffer. -/
theorem exec_flag_of_overflowed_frame {s : State} (hb1 tid : Byte) {p : List Byte} (hr : s.rxReady = false)
    (hs : ¬ Stale s) (he : s.rxEsc = false) (ho : s.rxOvf = true) (hcount : s.rxCount.toNat ≤ s.cfg.rxBufSize)
    (hlong : s.cfg.rxBufSize < 8 + p.length) :
    ∃ t, exec (.rxPush 0x7E) s = .next t ∧ t.commands = s.commands ∧ t.cmdResult = .ok ∧
      ClosedAs s.cfg.rxBufSize hb1 tid p t := by
  obtain ⟨-, hovf, -⟩ := delimiterClosesTheFrame s hr hs hcount
  exact ⟨_, hovf he ho, rfl, rfl, fun _ h => absurd hlong h.not_gt, fun _ h => absurd hlong h.not_gt,
    fun _ => ⟨rfl, hr, rfl, rfl⟩⟩

/-- From IDLE, the escaped header and payload and then one delimiter, all in time. -/
theorem run_body_and_flag {s : State} {hb1 tid : Byte} {p : List Byte} {xs : List (Byte × Word)}
    {rest : List PortWrite} (h : Idle s) (hp : p.length ≤ 65535)
    (hx : xs.map Prod.fst = escapeAll (buildHeader hb1 tid p ++ p) ++ [0x7E]) (ht : Timely s xs)
    (hc : s.commands = pushesFor xs ++ rest) :
    ∃ t, runFor xs.length s = .next t ∧ t.commands = rest ∧ t.cmdResult = .ok ∧
      ClosedAs s.cfg.rxBufSize hb1 tid p t := by
  obtain ⟨body, last, rfl, hbody, hlast⟩ := List.map_eq_append_iff.1 hx
  obtain ⟨⟨flag, time⟩, rfl, rfl⟩ := List.map_eq_singleton_iff.1 hlast
  suffices hclose : ∃ u, runFor body.length s = .next u ∧ u.commands = pushesFor [((0x7E : Byte), time)] ++ rest ∧
      ∃ t, exec (.rxPush 0x7E) { u with nowMs := time, commands := rest } = .next t ∧ t.commands = rest ∧
        t.cmdResult = .ok ∧ ClosedAs s.cfg.rxBufSize hb1 tid p t by
    obtain ⟨u, hrun, hcu, t, hpush, ht⟩ := hclose
    refine ⟨t, ?_, ht⟩
    rw [List.length_append, runFor_add hrun]
    exact runFor_succ ((step_push decodeOfEncodeIsTheCommand hcu).trans hpush)
  have hlen := length_header_append hb1 tid p
  by_cases hfits : 8 + p.length ≤ s.cfg.rxBufSize
  · obtain ⟨u, hrun, hr, he, ho, hcount, hbuf, ⟨hs, -⟩, hcu, hkeep⟩ :=
      run_escapeAll_of_idle h (hlen.trans_le hfits) hbody ht hc
    rw [← hkeep.cfg] at hfits ⊢
    exact ⟨u, hrun, hcu, exec_flag_of_buffered_frame (s := { u with nowMs := time, commands := rest }) hp hr hs he ho
      (hcount.trans hlen) hfits hbuf⟩
  · obtain ⟨hr, h0, he, -⟩ := h
    have hzero : s.rxCount.toNat = 0 := by rw [h0]; rfl
    obtain ⟨u, hrun, hru, heu, hou, hcount, ⟨hs, -⟩, hcu, hkeep⟩ :=
      run_escapeAll_overflow decodeOfEncodeIsTheCommand _ hbody hr he ht hc (by omega) (.inr (by omega))
    rw [← hkeep.cfg] at hfits hcount ⊢
    exact ⟨u, hrun, hcu, exec_flag_of_overflowed_frame (s := { u with nowMs := time, commands := rest }) hb1 tid hru hs
      heu hou hcount (by dsimp only; omega)⟩

/-- Settles O38: the body and the closing delimiter are all that a frame needs. -/
theorem openingDelimiterIsNotNeeded : Obligations.OpeningDelimiterIsNotNeeded := by
  intro s hb1 tid p xs rest h htype hp hfits hx hin hc
  obtain ⟨t, hrun, -, -, haccepted, -⟩ := run_body_and_flag h hp (List.cons.inj hx).2 (timely_of_idle h hin) hc
  exact ⟨t, hrun, haccepted htype hfits⟩

/-! ## The bytes that are no event (R101) -/

/-- The last command was a pushed byte that came to nothing: no frame, no error. -/
def NoEvent (t : State) : Prop := t.result = 0 ∧ t.cmdResult = .ok ∧ t.rxReady = false

/-- While no frame is held, a byte that is no delimiter is no event, timely or not. -/
theorem rxPush_noEvent {s : State} {d : Byte} (hr : s.rxReady = false) (hd : d ≠ 0x7E) :
    ∃ t, exec (.rxPush d) s = .next t ∧ t.commands = s.commands ∧ NoEvent t := by
  have hready : (beforeByte s).rxReady = false := (beforeByte_rxReady s).trans hr
  have hpush := execRxPush_eq d s
  rw [if_neg (by simp [hr]), if_neg hd] at hpush
  split at hpush
  · exact ⟨_, hpush, beforeByte_commands s, rfl, rfl, hready⟩
  split at hpush
  · exact ⟨_, hpush, beforeByte_commands s, rfl, rfl, hready⟩
  · exact ⟨_, hpush, beforeByte_commands s, rfl, rfl, hready⟩

/-- However many of the bytes before a delimiter have been pushed, the last was no event. -/
theorem runFor_noEvent (xs : List (Byte × Word)) {ys : List (Byte × Word)} {s : State} {rest : List PortWrite}
    (hx : 0x7E ∉ xs.map Prod.fst) (hs : NoEvent s) (hc : s.commands = pushesFor (xs ++ ys) ++ rest) {k : Nat}
    (hk : k ≤ xs.length) : ∃ t, runFor k s = .next t ∧ NoEvent t := by
  induction xs generalizing s k with
  | nil =>
    obtain rfl : k = 0 := by simpa using hk
    exact ⟨s, rfl, hs⟩
  | cons x xs ih =>
    cases k with
    | zero => exact ⟨s, rfl, hs⟩
    | succ k =>
      obtain ⟨b, time⟩ := x
      simp only [List.map_cons, List.mem_cons, not_or] at hx
      obtain ⟨hb, hx⟩ := hx
      obtain ⟨-, -, hr⟩ := hs
      obtain ⟨u, hpush, hcu, hu⟩ :=
        rxPush_noEvent (s := { s with nowMs := time, commands := pushesFor (xs ++ ys) ++ rest }) hr (Ne.symm hb)
      obtain ⟨t, hrun, ht⟩ := ih hx hu hcu (Nat.le_of_succ_le_succ hk)
      exact ⟨t, (runFor_succ ((step_push decodeOfEncodeIsTheCommand hc).trans hpush)).trans hrun, ht⟩

/-- Settles O37: the opening delimiter is no event and leaves the decoder IDLE, the body is no event, and the closing
delimiter brings what `run_body_and_flag` says. -/
theorem decoderAcceptsWhatTheEncoderBuilds : Obligations.DecoderAcceptsWhatTheEncoderBuilds := by
  intro s hb1 tid p xs rest h hp hx hin hc
  rw [buildFrame, List.append_assoc] at hx
  obtain ⟨⟨flag, time⟩, xs, rfl, rfl, hxs⟩ := List.map_eq_cons_iff.1 hx
  replace hx : xs.map Prod.fst = escapeAll (buildHeader hb1 tid p ++ p) ++ [flagByte] := hxs
  have hstep := step_flag_of_idle h hc
  refine ⟨fun k hk hlt => ?_, ?_⟩
  · obtain ⟨k, rfl⟩ := Nat.exists_eq_add_of_lt hk
    rw [Nat.zero_add, runFor_succ hstep]
    obtain ⟨body, last, rfl, hbody, hlast⟩ := List.map_eq_append_iff.1 hx
    have hlen : last.length = 1 := by simpa using congrArg List.length hlast
    rw [List.length_cons, List.length_append] at hlt
    exact runFor_noEvent body (s := s.pastFlag time (pushesFor (body ++ last) ++ rest))
      (by rw [hbody]; exact flag_notMem_escapeAll _) ⟨rfl, rfl, h.1⟩ rfl (by omega)
  · rw [List.length_cons, runFor_succ hstep]
    exact run_body_and_flag (s := s.pastFlag time (pushesFor xs ++ rest)) h hp hx (timely_after (s := s) hin rfl) rfl

end Sys2Proof.Machine
end

section
/-! The control commands NOP and SET_TIMEOUT (R109, R110), and the step on a word that is a command (R107). -/

namespace Sys2Proof.Machine

/-- Settles O1: the write is taken off the list, and then its word is decoded. -/
theorem stepRunsTheDecodedCommand : Obligations.StepRunsTheDecodedCommand := by
  intro s c rest i hc hd
  simp only [step, takeCommand_cons hc, hd]

theorem exec_nop (s : State) : exec .nop s = .next { s with result := 0, cmdResult := .ok } := rfl

/-- Settles O40: the whole next state, and the encoding. -/
theorem nopOnlyReportsOk : Obligations.NopOnlyReportsOk :=
  ⟨exec_nop, illegalWithBits .nop, rfl⟩

theorem exec_setTimeout (imm24 : BitVec 24) (s : State) :
    exec (.setTimeout imm24) s = .next { s with rxTimeout := imm24, result := 0, cmdResult := .ok } := rfl

/-- SET_TIMEOUT keeps the partial frame and `rx_last_ms`, so whenever the next check comes, only its bound is another. -/
theorem stale_after_setTimeout {s t : State} {imm24 : BitVec 24} (h : exec (.setTimeout imm24) s = .next t) (now : Word) :
    Stale { t with nowMs := now } ↔
      Partial s ∧ imm24.toNat < (now.toNat + 2 ^ 32 - s.rxLastMs.toNat) % 2 ^ 32 := by
  cases (exec_setTimeout imm24 s).symm.trans h
  exact Iff.rfl

/-- Settles O41: the whole next state, what the next timeout check compares, and the encoding. -/
theorem setTimeoutSetsTheTimeout : Obligations.SetTimeoutSetsTheTimeout :=
  ⟨fun s imm24 => exec_setTimeout imm24 s, fun _ _ _ now h => stale_after_setTimeout h now,
    illegalWithBits (.setTimeout 0), rfl⟩

end Sys2Proof.Machine
end

section
/-! Exceptions (60_exceptions.md). In order: a step with no command to take (R126), a push on a stale partial frame (R118), the
causes of the command errors (R114). -/

namespace Sys2Proof.Machine

/-! ## A step with no command to take (R126) -/

/-- Settles O2: with nothing on the host's list there is no write to take. -/
theorem withoutACommandTheStatePersists : Obligations.WithoutACommandTheStatePersists := by
  intro s hc
  simp only [step, takeCommand_nil hc]

/-! ## A push on a stale partial frame (R93, R118) -/

/-- After the discard nothing is left that could be stale. -/
theorem discardPartial_not_stale {s : State} (hs : Stale s) : ¬ Stale (discardPartial s) :=
  Idle.not_stale ⟨hs.rxReady, rfl, rfl, rfl⟩

/-- A push takes its byte in the same state whether it or an earlier check discards the stale frame. -/
theorem beforeByte_discardPartial {s : State} (hs : Stale s) : beforeByte (discardPartial s) = beforeByte s := by
  rw [beforeByte_of_not_stale (discardPartial_not_stale hs), beforeByte_of_stale hs]; rfl

/-- With no frame held, what a push does depends on the state in which it takes its byte, and on nothing else. -/
theorem rxPush_congr {s t : State} (hs : s.rxReady = false) (ht : t.rxReady = false) (hb : beforeByte s = beforeByte t)
    (d : Byte) : exec (.rxPush d) s = exec (.rxPush d) t := by
  change execRxPush d s = execRxPush d t
  simp only [execRxPush, hs, ht, hb, Bool.false_eq_true, if_false]

/-- Settles O31: the push takes its byte in the state that a push after the discard does, and that is IDLE. -/
theorem stalePushStartsAfresh : Obligations.StalePushStartsAfresh := by
  intro s d hs
  have hflag : exec (.rxPush 0x7E) s = .next (complete 0 (beforeByte s)) := exec_rxPush_flag_of_stale hs
  rw [beforeByte_of_stale hs] at hflag
  exact ⟨rxPush_congr (t := discardPartial s) hs.rxReady hs.rxReady (beforeByte_discardPartial hs).symm d,
    discardPartial_not_stale hs, hflag⟩

/-! ## The causes of the command errors (R13, R114) -/

/-- The code with which a command ends, by its cause in the state before (R114). -/
def endCode (s : State) : Instr → CmdResult
  | .rxPush _ => if s.rxReady then .busy else .ok
  | .rxRead idx => if s.rxCount.toNat ≤ idx.toNat then .range else .ok
  | .txfRead idx => if s.txFrameLen.toNat ≤ idx.toNat then .range else .ok
  | .txpWrite idx _ => if s.cfg.maxTxPayload.val ≤ idx.toNat then .range else .ok
  | .txSetLen len => if s.cfg.maxTxPayload.val < len.toNat then .range else .ok
  | .nop | .rxPoll | .rxRelease | .txEncode _ _ _ | .crc8Clear | .crc8Update _ | .setTimeout _ | .softReset => .ok

/-- Every command ends with its `endCode`: it completes, or it raises that code as its only effect (R13). -/
theorem exec_endCode {s t : State} {i : Instr} (h : exec i s = .next t) :
    t.cmdResult = endCode s i ∧ (t.cmdResult = .ok ∨ t = cmdError t.cmdResult s) := by
  cases i with
  | rxPush d =>
    obtain ⟨hr, rfl⟩ | ⟨hr, -, -, v, -, rfl⟩ | ⟨hr, -, -, -, rfl⟩ | ⟨hr, -, -, -, rfl⟩ | ⟨hr, -, -, -, rfl⟩ :=
      rxPush_next h
    case inl => exact ⟨(if_pos hr).symm, .inr rfl⟩
    all_goals exact ⟨(if_neg (Bool.eq_false_iff.1 hr)).symm, .inl rfl⟩
  | rxRead idx =>
    obtain ⟨hlt, -, rfl⟩ | ⟨hge, rfl⟩ := rxRead_next h
    · exact ⟨(if_neg hlt.not_ge).symm, .inl rfl⟩
    · exact ⟨(if_pos hge).symm, .inr rfl⟩
  | txfRead idx =>
    obtain ⟨hlt, -, rfl⟩ | ⟨hge, rfl⟩ := txfRead_next h
    · exact ⟨(if_neg hlt.not_ge).symm, .inl rfl⟩
    · exact ⟨(if_pos hge).symm, .inr rfl⟩
  | txpWrite idx d =>
    obtain ⟨hlt, rfl⟩ | ⟨hge, rfl⟩ := txpWrite_next h
    · exact ⟨(if_neg hlt.not_ge).symm, .inl rfl⟩
    · exact ⟨(if_pos hge).symm, .inr rfl⟩
  | txSetLen len =>
    obtain ⟨hle, rfl⟩ | ⟨hgt, rfl⟩ := txSetLen_next h
    · exact ⟨(if_neg hle.not_gt).symm, .inl rfl⟩
    · exact ⟨(if_pos hgt).symm, .inr rfl⟩
  | txEncode tid type val => obtain ⟨-, -, rfl⟩ := txEncode_next h; exact ⟨rfl, .inl rfl⟩
  | nop | rxPoll | rxRelease | crc8Clear | crc8Update | setTimeout | softReset => cases h; exact ⟨rfl, .inl rfl⟩

theorem endCode_ne_illegal (s : State) (i : Instr) : endCode s i ≠ .illegal := by
  cases i <;> simp [endCode, ite_eq_iff]

theorem endCode_eq_busy (s : State) (i : Instr) : endCode s i = .busy ↔ s.rxReady = true ∧ ∃ d8, i = .rxPush d8 := by
  cases i <;> simp [endCode, ite_eq_iff]

theorem endCode_eq_range (s : State) (i : Instr) :
    endCode s i = .range ↔
      (∃ idx, i = .rxRead idx ∧ s.rxCount.toNat ≤ idx.toNat) ∨
      (∃ idx, i = .txfRead idx ∧ s.txFrameLen.toNat ≤ idx.toNat) ∨
      (∃ idx d8, i = .txpWrite idx d8 ∧ s.cfg.maxTxPayload.val ≤ idx.toNat) ∨
      (∃ len, i = .txSetLen len ∧ s.cfg.maxTxPayload.val < len.toNat) := by
  cases i <;> simp [endCode, ite_eq_iff]

/-- Settles O52: the code a command leaves is its `endCode`, whose values are the causes. -/
theorem commandErrorsHaveTheirCauses : Obligations.CommandErrorsHaveTheirCauses := by
  intro s t i h
  obtain ⟨hcode, heffect⟩ := exec_endCode h
  refine ⟨?_, ?_, ?_, heffect.resolve_left⟩
  · exact hcode ▸ endCode_ne_illegal s i
  · exact hcode ▸ endCode_eq_busy s i
  · exact hcode ▸ endCode_eq_range s i

end Sys2Proof.Machine
end

section
/-! Reset and hazards (70_reset_and_hazards.md). In order: the state right after reset (R127, R129), the payload bytes that a
reset leaves free (R130), a frame that has been released (R134). -/

namespace Sys2Proof.Machine

/-! ## The state right after reset (R111, R127, R129) -/

theorem exec_softReset (s : State) : exec .softReset s = .next (resetAll s) := rfl

/-- With nothing listed in a buffer its bytes are the free values of the draw. -/
theorem byteAt_of_mem_nil {s : State} {b : BufferId} (h : s.mem b = []) (i : Nat) :
    byteAt s b i = Config.unwritten b s.draws i := by
  rw [byteAt, h, read?_nil, Option.getD_none]

/-- Every element is at its reset value after a reset, whichever draw of the buffers it makes. -/
theorem atReset_resetAll_draw (s : State) (draws : Nat) : AtReset { resetAll s with draws := draws } := by
  constructor
  case buffers => exact fun b i => byteAt_of_mem_nil (by cases b <;> rfl) i
  all_goals rfl

/-- The offsets of the read port's registers. -/
theorem mapped_offset {offset : BitVec 8} (h : ¬ (offset.toNat % 4 ≠ 0 ∨ 0x28 < offset.toNat)) :
    offset = 0x00 ∨ offset = 0x04 ∨ offset = 0x08 ∨ offset = 0x0C ∨ offset = 0x10 ∨ offset = 0x14 ∨ offset = 0x18 ∨
      offset = 0x1C ∨ offset = 0x20 ∨ offset = 0x24 ∨ offset = 0x28 := by
  bv_omega

theorem status_of_atReset {s : State} (h : AtReset s) : (status s).toNat = 0 := by
  rw [status_toNat, h.rxReady, h.rxErr, h.rxErrCode, h.rxEsc, h.rxOvf, h.rxDiscard, h.txValid, h.cmdResult]
  rfl

/-- What the host reads right after reset: 0, but for the timeout and the two capability constants. -/
theorem readPort_of_atReset {s : State} (h : AtReset s) (offset : BitVec 8) :
    (readPort s offset).toNat =
      if offset = 0x20 then 100
      else if offset = 0x24 then s.cfg.rxBufSize
      else if offset = 0x28 then s.cfg.maxTxPayload.val
      else 0 := by
  obtain ⟨hresult, hcount, hlen, hframeLen, hacc, htimeout, hrxSize, htxSize, hunmapped⟩ :=
    plainViewsAndUnmappedOffsets s
  obtain ⟨-, hnoFrame, -⟩ := headerViewsShowTheHeldFrame
  obtain ⟨hinfo, hcrc⟩ := hnoFrame s h.rxReady
  rw [h.result] at hresult
  rw [h.rxCount] at hcount
  rw [h.txLen] at hlen
  rw [h.txFrameLen] at hframeLen
  rw [h.crcAcc] at hacc
  rw [h.rxTimeout] at htimeout
  by_cases hmap : offset.toNat % 4 ≠ 0 ∨ 0x28 < offset.toNat
  · rw [hunmapped offset hmap, if_neg (by bv_omega), if_neg (by bv_omega), if_neg (by bv_omega)]; rfl
  · obtain rfl | rfl | rfl | rfl | rfl | rfl | rfl | rfl | rfl | rfl | rfl := mapped_offset hmap
    exacts [status_of_atReset h, congrArg BitVec.toNat hresult, hcount, congrArg BitVec.toNat hinfo,
      congrArg BitVec.toNat hcrc, hlen, hframeLen, hacc, htimeout, hrxSize, htxSize]

/-- Settles O42: power-on reset is a reset at draw 0, `SOFT_RESET` one at the next draw, and the views follow from the
elements. -/
theorem resetGivesEveryElementItsValue : Obligations.ResetGivesEveryElementItsValue :=
  ⟨atReset_resetAll_draw State.reset 0,
    fun s => ⟨_, exec_softReset s, atReset_resetAll_draw s (s.draws + 1), rfl, rfl, rfl⟩,
    fun _ offset h => readPort_of_atReset h offset, illegalWithBits .softReset, rfl⟩

/-- Settles O43: a reset keeps nothing of the state but the configuration, the draw, the time and the host's list. -/
theorem resetIsIdempotent : Obligations.ResetIsIdempotent := by
  refine ⟨fun s t u ht hu => ?_, ⟨_, exec_softReset State.reset, rfl⟩, fun s t now ht => ?_⟩
  · cases ht; cases hu; rfl
  · cases ht; rfl

/-! ## The payload bytes that a reset leaves free (R130) -/

/-- Settles O24: after the reset nothing is listed in `TXP`, and `TX_SETLEN` lists nothing. -/
theorem unwrittenPayloadBytesAreFree : Obligations.UnwrittenPayloadBytesAreFree := by
  intro s n hn
  refine ⟨_, _, exec_softReset s, exec_txSetLen_of_le hn, Nat.succ_ne_self s.draws, fun tid type val => ?_⟩
  exact congrArg (buildFrame _ _) (List.map_congr_left fun j _ => byteAt_of_mem_nil rfl j)

/-! ## A frame that has been released (R134) -/

/-- Settles O34: the release leaves no frame held and nothing buffered, so no index is in range. -/
theorem releasedFrameIsGone : Obligations.ReleasedFrameIsGone := by
  intro s t hr h
  obtain ⟨hrelease, -⟩ := rxReleaseFreesTheFrame
  obtain ⟨-, hnoFrame, -⟩ := headerViewsShowTheHeldFrame
  obtain ⟨-, hrange, -⟩ := rxReadReturnsTheBufferedByte
  obtain ⟨hinfo, hcrc⟩ := hnoFrame t (exec_frees_held h (.inl rfl))
  have hcount : t.rxCount = 0 := by cases (hrelease s hr).symm.trans h; rfl
  exact ⟨hcount, hinfo, hcrc, fun idx => hrange t idx (by rw [hcount]; exact Nat.zero_le _)⟩

end Sys2Proof.Machine
end

section
/-! The receive and the transmit path share no state (R139). In order: a state made of one state's receive side and another's
rest, and the same for the transmit side; that a command of a path does the same whatever the other side is; its frame; the
two statements. -/

namespace Sys2Proof.Machine

/-! ## One side of a state laid on another -/

/-- The state `u` with the receive side of `s`, at the time and the draw of `s`. -/
def State.withReceive (u s : State) : State :=
  { u with
    rxCount := s.rxCount
    rxEsc := s.rxEsc
    rxOvf := s.rxOvf
    rxReady := s.rxReady
    rxErr := s.rxErr
    rxErrCode := s.rxErrCode
    rxDiscard := s.rxDiscard
    rxLastMs := s.rxLastMs
    rxTimeout := s.rxTimeout
    rxb := s.rxb
    cfg := s.cfg
    draws := s.draws
    nowMs := s.nowMs }

/-- The state `u` with the transmit side of `s`, at the time and the draw of `s`. -/
def State.withTransmit (u s : State) : State :=
  { u with
    txLen := s.txLen
    txFrameLen := s.txFrameLen
    txValid := s.txValid
    txp := s.txp
    txf := s.txf
    cfg := s.cfg
    draws := s.draws
    nowMs := s.nowMs }

/-- The state `u` with the answer that `s` shows to the last command (R36, R37). -/
def State.withAnswer (u s : State) : State := { u with result := s.result, cmdResult := s.cmdResult }

theorem SameInstance.symm {s t : State} (h : SameInstance s t) : SameInstance t s := by
  obtain ⟨hcfg, hdraws, hnow⟩ := h
  exact ⟨hcfg.symm, hdraws.symm, hnow.symm⟩

theorem SameInstance.trans {s t u : State} (h : SameInstance s t) (h' : SameInstance t u) : SameInstance s u := by
  obtain ⟨hcfg, hdraws, hnow⟩ := h
  obtain ⟨hcfg', hdraws', hnow'⟩ := h'
  exact ⟨hcfg.trans hcfg', hdraws.trans hdraws', hnow.trans hnow'⟩

theorem SameReceive.symm {s t : State} (h : SameReceive s t) : SameReceive t s := by
  unfold SameReceive at h ⊢
  simp only [h, and_self]

theorem SameTransmit.symm {s t : State} (h : SameTransmit s t) : SameTransmit t s := by
  unfold SameTransmit at h ⊢
  simp only [h, and_self]

theorem withReceive_eq_self {s u : State} (hi : SameInstance s u) (hr : SameReceive s u) : u.withReceive s = u := by
  obtain ⟨hcfg, hdraws, hnow⟩ := hi
  obtain ⟨hcount, hesc, hovf, hready, herr, hcode, hdiscard, hlast, htimeout, hrxb⟩ := hr
  rw [State.withReceive, hcfg, hdraws, hnow, hcount, hesc, hovf, hready, herr, hcode, hdiscard, hlast, htimeout, hrxb]

theorem withTransmit_eq_self {s u : State} (hi : SameInstance s u) (ht : SameTransmit s u) : u.withTransmit s = u := by
  obtain ⟨hcfg, hdraws, hnow⟩ := hi
  obtain ⟨hlen, hframeLen, hvalid, htxp, htxf⟩ := ht
  rw [State.withTransmit, hcfg, hdraws, hnow, hlen, hframeLen, hvalid, htxp, htxf]

/-- Two states that agree but for their sides and their answers, put together from either end. -/
theorem withReceive_eq_withTransmit {a c : State} (hinst : SameInstance a c) (hacc : a.crcAcc = c.crcAcc)
    (hcommands : a.commands = c.commands) : c.withReceive a = (a.withTransmit c).withAnswer c := by
  obtain ⟨hcfg, hdraws, hnow⟩ := hinst
  rw [State.withReceive, State.withAnswer, State.withTransmit, hcfg, hdraws, hnow, hacc, hcommands]

/-! ## The receive path, whatever the transmit side -/

section

variable (u s : State)

theorem timeoutCheck_withReceive : timeoutCheck (u.withReceive s) = u.withReceive (timeoutCheck s) := by
  rw [timeoutCheck, timeoutCheck, apply_ite u.withReceive]; rfl

theorem beforeByte_withReceive : beforeByte (u.withReceive s) = u.withReceive (beforeByte s) := by
  rw [beforeByte, timeoutCheck_withReceive]; rfl

theorem closeFrame_withReceive (v : Verdict) :
    closeFrame v (u.withReceive s) = (u.withReceive (closeFrame v s).1, (closeFrame v s).2) := by
  cases v <;> rfl

theorem freeHeld_withReceive : freeHeld (u.withReceive s) = u.withReceive (freeHeld s) := by
  rw [freeHeld, freeHeld, apply_ite u.withReceive]; rfl

end

theorem rxPush_withReceive {s t : State} {d : Byte} (h : exec (.rxPush d) s = .next t) (u : State) :
    exec (.rxPush d) (u.withReceive s) = .next ((u.withReceive t).withAnswer t) := by
  rw [show exec (.rxPush d) _ = _ from execRxPush_eq d _, beforeByte_withReceive]
  obtain ⟨hr, rfl⟩ | ⟨hr, rfl, hc, v, hv, rfl⟩ | ⟨hr, hd, he, hx, rfl⟩ | ⟨hr, hd, hx, hc, rfl⟩ | ⟨hr, hd, hx, hc, rfl⟩ :=
    rxPush_next h
  case inl => exact if_pos hr
  all_goals refine (if_neg (Bool.eq_false_iff.1 hr)).trans ?_
  case inr.inl =>
    refine (if_pos rfl).trans ((if_pos hc).trans ?_)
    rw [closeFrame_withReceive]
    cases hv; rfl
  all_goals refine (if_neg hd).trans ?_
  · exact if_pos ⟨he, hx⟩
  · exact (if_neg hx).trans (if_pos hc)
  · exact (if_neg hx).trans (if_neg hc.not_gt)

/-- A receive command does to a state with the receive side of `s` what it does to `s`, and leaves the rest of that state. -/
theorem exec_withReceive {s t : State} {i : Instr} (h : exec i s = .next t) (hi : onReceivePath i = true) (u : State) :
    exec i (u.withReceive s) = .next ((u.withReceive t).withAnswer t) := by
  cases i with
  | rxPush d => exact rxPush_withReceive h u
  | rxPoll =>
    cases h
    change Host.Outcome.next (complete _ (timeoutCheck (u.withReceive s))) = _
    rw [timeoutCheck_withReceive]; rfl
  | rxRelease =>
    cases h
    change Host.Outcome.next (complete 0 (clearSticky (freeHeld (u.withReceive s)))) = _
    rw [freeHeld_withReceive]; rfl
  | rxRead idx =>
    rw [show exec (.rxRead idx) _ = _ from execRxRead_eq idx _]
    obtain ⟨hcount, hsize, rfl⟩ | ⟨hcount, rfl⟩ := rxRead_next h
    · exact (if_pos hcount).trans (if_pos hsize)
    · exact if_neg hcount.not_gt
  | setTimeout ms => cases h; rfl
  | nop | txpWrite | txSetLen | txEncode | txfRead | crc8Clear | crc8Update | softReset => cases hi

/-! ## The transmit path, whatever the receive side -/

/-- A transmit command does to a state with the transmit side of `s` what it does to `s`, and leaves the rest of that
state. -/
theorem exec_withTransmit {s t : State} {i : Instr} (h : exec i s = .next t) (hi : onTransmitPath i = true) (u : State) :
    exec i (u.withTransmit s) = .next ((u.withTransmit t).withAnswer t) := by
  cases i with
  | txpWrite idx d =>
    obtain ⟨hidx, rfl⟩ | ⟨hidx, rfl⟩ := txpWrite_next h
    · exact exec_txpWrite_of_lt (s := u.withTransmit s) hidx d
    · exact exec_txpWrite_of_ge (s := u.withTransmit s) hidx d
  | txSetLen n =>
    obtain ⟨hn, rfl⟩ | ⟨hn, rfl⟩ := txSetLen_next h
    · exact exec_txSetLen_of_le (s := u.withTransmit s) hn
    · exact exec_txSetLen_of_gt (s := u.withTransmit s) hn
  | txEncode tid type val =>
    obtain ⟨hlen, hfit, rfl⟩ := txEncode_next h
    exact (execTxEncode_eq tid type val _).trans ((if_pos hlen).trans (if_pos hfit))
  | txfRead idx =>
    obtain ⟨hlen, hsize, rfl⟩ | ⟨hlen, rfl⟩ := txfRead_next h
    · exact (execTxfRead_eq idx _).trans ((if_pos hlen).trans (if_pos hsize))
    · exact exec_txfRead_of_ge (s := u.withTransmit s) hlen
  | nop | rxPush | rxPoll | rxRelease | rxRead | setTimeout | crc8Clear | crc8Update | softReset => cases hi

/-! ## What a command of one path leaves alone -/

/-- Only `SOFT_RESET` draws the buffers anew (R127), and no command changes the configuration (R21) or the time. -/
theorem exec_sameInstance {s t : State} {i : Instr} (h : exec i s = .next t) (hreset : i ≠ .softReset) :
    SameInstance s t := by
  obtain ⟨hcfg, hnow⟩ := exec_cfg_nowMs h
  refine ⟨hcfg.symm, ?_, hnow.symm⟩
  cases i with
  | softReset => exact absurd rfl hreset
  | rxPush => rw [rxPush_frame h]
  | rxPoll => rw [rxPoll_frame h]
  | rxRelease => rw [rxRelease_frame h]
  | nop | rxRead | txpWrite | txSetLen | txEncode | txfRead | crc8Clear | crc8Update | setTimeout =>
    rw [exec_frame_of_not_writesDecoder h rfl]

section

variable {s t u : State} {i : Instr} (h : exec i s = .next t)
include h

theorem exec_of_sameReceive (hi : onReceivePath i = true) (hinst : SameInstance s u) (hsame : SameReceive s u) :
    exec i u = .next ((u.withReceive t).withAnswer t) :=
  (congrArg (exec i) (withReceive_eq_self hinst hsame).symm).trans (exec_withReceive h hi u)

theorem exec_of_sameTransmit (hi : onTransmitPath i = true) (hinst : SameInstance s u) (hsame : SameTransmit s u) :
    exec i u = .next ((u.withTransmit t).withAnswer t) :=
  (congrArg (exec i) (withTransmit_eq_self hinst hsame).symm).trans (exec_withTransmit h hi u)

/-- The frame of a receive command: all but the receive side and the answer. -/
theorem receive_frame (hi : onReceivePath i = true) : t = (s.withReceive t).withAnswer t :=
  Host.Outcome.next.inj (h.symm.trans (exec_withReceive h hi s))

/-- The frame of a transmit command: all but the transmit side and the answer. -/
theorem transmit_frame (hi : onTransmitPath i = true) : t = (s.withTransmit t).withAnswer t :=
  Host.Outcome.next.inj (h.symm.trans (exec_withTransmit h hi s))

theorem sameTransmit_of_receive (hi : onReceivePath i = true) : SameTransmit t s := by
  rw [receive_frame h hi]
  exact ⟨rfl, rfl, rfl, rfl, rfl⟩

theorem sameReceive_of_transmit (hi : onTransmitPath i = true) : SameReceive t s := by
  rw [transmit_frame h hi]
  exact ⟨rfl, rfl, rfl, rfl, rfl, rfl, rfl, rfl, rfl, rfl⟩

end

/-! ## The statements -/

/-- Settles O55: what the command does to the second state is what it does to the first, laid on the second. -/
theorem receiveAndTransmitShareNoState : Obligations.ReceiveAndTransmitShareNoState := by
  refine ⟨fun s s' t i hi hinst hsame h => ?_, fun s s' t i hi hinst hsame h => ?_⟩
  · have h' := exec_of_sameReceive h hi hinst hsame
    refine ⟨sameTransmit_of_receive h hi, _, h', ?_, sameTransmit_of_receive h' hi, rfl, rfl⟩
    exact ⟨rfl, rfl, rfl, rfl, rfl, rfl, rfl, rfl, rfl, rfl⟩
  · have h' := exec_of_sameTransmit h hi hinst hsame
    refine ⟨sameReceive_of_transmit h hi, _, h', ?_, sameReceive_of_transmit h' hi, rfl, rfl⟩
    exact ⟨rfl, rfl, rfl, rfl, rfl⟩

/-- Settles O56: each command, coming second, finds its own side as it would coming first. -/
theorem receiveAndTransmitCommandsInterleaveFreely : Obligations.ReceiveAndTransmitCommandsInterleaveFreely := by
  intro s i j hinv hi hj
  obtain ⟨a, ha⟩ := exec_answers hinv i
  obtain ⟨c, hc⟩ := exec_answers hinv j
  have hsa : SameInstance s a := exec_sameInstance ha (by rintro rfl; cases hi)
  have hsc : SameInstance s c := exec_sameInstance hc (by rintro rfl; cases hj)
  have hb := exec_of_sameTransmit hc hj hsa (sameTransmit_of_receive ha hi).symm
  have hd := exec_of_sameReceive ha hi hsc (sameReceive_of_transmit hc hj).symm
  have hacc : a.crcAcc = c.crcAcc := by rw [receive_frame ha hi, transmit_frame hc hj]; rfl
  have hcommands : a.commands = c.commands := (exec_commands ha).trans (exec_commands hc).symm
  rw [withReceive_eq_withTransmit (hsa.symm.trans hsc) hacc hcommands] at hd
  exact ⟨a, _, c, _, ha, hb, hc, hd, rfl, rfl, rfl, rfl, rfl⟩

end Sys2Proof.Machine
end
